-- ==== Sys2Proof/Word.lean ====
section
/-! DEFINITION. The word types of the block (00_scope.md R7, R9; 10_state.md R22). -/

namespace Sys2Proof

/-- An 8-bit byte of a buffer or of the wire (00_scope.md R9). -/
abbrev Byte := BitVec 8

/-- A 16-bit value: a port, a checksum, a length field (10_state.md R22). -/
abbrev Half := BitVec 16

/-- A 32-bit value: a bus word, an address, a sequence number (10_state.md R22). -/
abbrev Word := BitVec 32

end Sys2Proof
end

