-- ==== Sys2Proof/Syntax.lean ====
section
/-! DEFINITION. The commands of the block: one constructor per row of spec/opcode_table.json. -/

namespace Sys2Proof

/-- A command is the value written to CTRL (30_encoding.md R70).
`ign` is bits [31:3], which nothing reads (R71); it is kept so that no bit of the word is dropped (log 14). -/
inductive Instr where
  /-- CMD = 0: NOP (R72). -/
  | nop (ign : BitVec 29)
  /-- CMD = 1: CSUM (40_checksum.md R109). -/
  | csum (ign : BitVec 29)
  /-- CMD = 2: BUILD (42_segment_transmit.md R143). -/
  | build (ign : BitVec 29)
  /-- CMD = 3: SEND (42_segment_transmit.md R144). -/
  | send (ign : BitVec 29)
  /-- CMD in 4 to 7: reserved, ILLEGAL_CMD (60_exceptions.md R164). -/
  | reserved (cmd : BitVec 3) (ign : BitVec 29)
  deriving DecidableEq, Repr

end Sys2Proof
end

