-- ==== Sys2Proof/WellFormed.lean ====
section
/-! DEFINITION. Which terms of `Instr` are commands: the check the syntax leaves open. -/

namespace Sys2Proof

/-- A reserved command has CMD in 4 to 7, that is, bit 2 of CMD set (30_encoding.md R70, spec/opcode_table.json). -/
def Instr.wellFormed : Instr → Bool
  | .nop _ => true
  | .csum _ => true
  | .build _ => true
  | .send _ => true
  | .reserved cmd _ => cmd.getLsbD 2

/-- The check as a proposition. -/
abbrev Instr.WellFormed (i : Instr) : Prop := i.wellFormed = true

end Sys2Proof
end

