-- ==== Sys2Proof/Decode.lean ====
section
/-! DEFINITION. The decoder of CTRL words, the encoder, and the opcode table's match and mask words. -/

namespace Sys2Proof

/-- CMD = v[2:0] (30_encoding.md R70). -/
def cmdField (v : Word) : BitVec 3 := v.extractLsb' 0 3

/-- v[31:3], the bits every command ignores (30_encoding.md R71). -/
def ignField (v : Word) : BitVec 29 := v.extractLsb' 3 29

/-- The command a CTRL word is: "a decoder reads CMD = v[2:0] and nothing else" (30_encoding.md R76).
Every word is a command, so nothing is refused here. -/
def decodeCtrl (v : Word) : Instr :=
  if cmdField v = 0 then .nop (ignField v)
  else if cmdField v = 1 then .csum (ignField v)
  else if cmdField v = 2 then .build (ignField v)
  else if cmdField v = 3 then .send (ignField v)
  else .reserved (cmdField v) (ignField v)

/-- Why a sequence of words is no command. -/
inductive DecodeError where
  /-- "There is one command length (one 32-bit CTRL write)": none or several words are no command (30_encoding.md R76). -/
  | notOneWord
  deriving DecidableEq, Repr

/-- Decoding a sequence of CTRL words: exactly one word is a command (30_encoding.md R76). -/
def decode : List Word → Except DecodeError Instr
  | [v] => .ok (decodeCtrl v)
  | _ => .error .notOneWord

/-- CMD of a command (30_encoding.md R70). -/
def Instr.cmd : Instr → BitVec 3
  | .nop _ => 0
  | .csum _ => 1
  | .build _ => 2
  | .send _ => 3
  | .reserved cmd _ => cmd

/-- The ignored bits of a command (30_encoding.md R71). -/
def Instr.ign : Instr → BitVec 29
  | .nop ign => ign
  | .csum ign => ign
  | .build ign => ign
  | .send ign => ign
  | .reserved _ ign => ign

/-- The CTRL word of a command: reserved bits [31:3], then CMD (30_encoding.md R70). -/
def encode (i : Instr) : Word := i.ign ++ i.cmd

/-- The "match" word of a command's row of spec/opcode_table.json. -/
def tableMatch : Instr → Word
  | .nop _ => 0x00000000
  | .csum _ => 0x00000001
  | .build _ => 0x00000002
  | .send _ => 0x00000003
  | .reserved _ _ => 0x00000004

/-- The "mask" word of a command's row of spec/opcode_table.json. -/
def tableMask : Instr → Word
  | .nop _ => 0x00000007
  | .csum _ => 0x00000007
  | .build _ => 0x00000007
  | .send _ => 0x00000007
  | .reserved _ _ => 0x00000004

/-- The command the decoder reads from a word given as a number of `nbits` bits, bit 0 least significant, the bits above
`nbits` zero.
A command is one 32-bit word (30_encoding.md R76), so more bits than that are no command. -/
def decodeTableWord (nbits w : Nat) : Option Instr :=
  if nbits ≤ 32 then
    match decode [BitVec.ofNat 32 (w % 2 ^ nbits)] with
    | .ok i => some i
    | .error _ => none
  else none

end Sys2Proof
end

