-- ==== Sys2Proof/Config.lean ====
section
/-! DEFINITION. The open parameters of the block and the free values: constants without a body. -/

namespace Sys2Proof

/-- `P_IP_ID`, the IP identification value: OPEN, fixed for the block (00_scope.md R6, decision D8; log 5). -/
opaque Config.ipId : Half

/-- `P_TCP_WINDOW`, the TCP window value: OPEN, fixed for the block (00_scope.md R6, decision D9; log 5). -/
opaque Config.tcpWindow : Half

/-- `P_BASE`, the block's base address on the host bus: OPEN (00_scope.md R6, decision D3; log 5). -/
opaque Config.base : Nat

/-- The n-th free byte: what a buffer byte of unspecified value reads as (10_state.md R35, R36; log 3, log 4). -/
opaque Config.freeByte : Nat → Byte

/-- The n-th free word: what a result register or the frame window reads as while BUSY (10_state.md R40; log 4). -/
opaque Config.freeWord : Nat → Word

/-- The n-th free `tx_resp` code, used only by `State.withFetchWord`, numbered by `draws` (42_segment_transmit.md R150; log 15). -/
opaque Config.freeSinkCode : Nat → BitVec 2

/-- The two parameters the encoders take (00_scope.md R6). -/
structure Params where
  ipId : Half
  tcpWindow : Half
  deriving DecidableEq, Repr

/-- The parameters of this block. -/
def Config.params : Params := ⟨Config.ipId, Config.tcpWindow⟩

end Sys2Proof
end

