-- ==== Sys2Proof/Machine/State.lean ====
section
/-! DEFINITION. The state of the block as plain data, the reasons a step can stop, and the state after reset. -/

namespace Sys2Proof.Machine

/-- A started command the engine performs (10_state.md R31). -/
inductive Command where
  | csum
  | build
  | send
  deriving DecidableEq, Repr

/-- The engine phase; the latched command is meaningful only while BUSY, so it stands there (10_state.md R31, R41; log 17). -/
inductive Phase where
  | idle
  | busy (cmd : Command)
  deriving DecidableEq, Repr

/-- The codes STATUS.ERR takes (60_exceptions.md R160); 5 to 15 are never written, and have no constructor. -/
inductive ErrCode where
  | ok
  | invalidInput
  | sinkUnavailable
  | txRejected
  | illegalCmd
  deriving DecidableEq, Repr

/-- The sink's response to one transaction (42_segment_transmit.md R150). -/
inductive SinkResponse where
  | accepted
  | unavailable
  | rejected
  deriving DecidableEq, Repr

/-- One record of the sink's transaction log (10_state.md R38). -/
structure TxRecord where
  dstAddr : Word
  dstPort : Half
  frame : List Byte
  response : SinkResponse
  deriving DecidableEq, Repr

/-- A byte memory: (index, byte) pairs, indices strictly rising. An unlisted byte has no value of its own: it holds an
unspecified value (10_state.md R35, R36; log 3). -/
abbrev Memory := List Host.Cell

/-- One host bus transaction, as the bus signals present it (10_state.md R43): `bus_wr`, `bus_addr`, `bus_size`, `bus_wdata`. -/
structure BusTxn where
  wr : Bool
  addr : BitVec 18
  size : BitVec 2
  wdata : Word
  deriving DecidableEq, Repr

/-- The engine's part of a turn: `hold`, the engine takes no step; `go sink`, it takes its step if one is enabled, and `sink`
is the `tx_resp` code the sink presents at that step, `none` while it presents no response (10_state.md R31,
42_segment_transmit.md R150; log 1, log 6). -/
inductive EngineSlot where
  | hold
  | go (sink : Option (BitVec 2))
  deriving DecidableEq, Repr

/-- The host's part of a turn. -/
inductive HostAct where
  /-- No host transaction. -/
  | quiet
  /-- One bus transaction (20_memory.md R55, R56). -/
  | bus (t : BusTxn)
  /-- One read of a `WAIT` loop: it stays at the head of the schedule while the value read has BUSY = 1 (30_encoding.md R78). `later`
  holds the engine slots of the reads after this one; no reset comes between two of its reads (log 13). -/
  | wait (later : List EngineSlot)
  /-- `rst` = 1 at a clock edge (70_reset_and_hazards.md R180). `cut` is what the sink did with a SEND this abandons: `none`, it
  received nothing, or the number of frame bytes it received and its response code (R182; log 7). -/
  | reset (cut : Option (Nat × BitVec 2))
  deriving DecidableEq, Repr

/-- One turn: one act of the host, then at most one engine step (20_memory.md R61; log 1). -/
structure Turn where
  host : HostAct
  engine : EngineSlot
  deriving DecidableEq, Repr

/-- The state: the registers (10_state.md R22), the engine (R31), the two buffers (R35, R36), the sink's log (R38), the bus read
data (R43), and the model's own three fields: `draws`, `schedule`, `slot`. -/
structure State where
  /-- SRC_ADDR (R26). -/
  srcAddr : Word
  /-- DST_ADDR (R26). -/
  dstAddr : Word
  /-- SRC_PORT[15:0] (R27). -/
  srcPort : Half
  /-- DST_PORT[15:0] (R27). -/
  dstPort : Half
  /-- SEQ (R28). -/
  seq : Word
  /-- ACK (R28). -/
  ack : Word
  /-- FLAGS[5:0] (R29). -/
  flags : BitVec 6
  /-- PAYLOAD_LEN (R30). -/
  payloadLen : Word
  /-- CSUM_BASE (R32). -/
  csumBase : Word
  /-- CSUM_LEN (R32). -/
  csumLen : Word
  /-- CSUM_RESULT[15:0] (R33). -/
  csumResult : Half
  /-- IP_CSUM[15:0] (R33). -/
  ipCsum : Half
  /-- TCP_CSUM[15:0] (R33). -/
  tcpCsum : Half
  /-- FRAME_LEN[15:0] (R33). -/
  frameLen : Half
  /-- STATUS.DONE (R24). -/
  done : Bool
  /-- STATUS.IGN (R24). -/
  ign : Bool
  /-- STATUS.ERR (R24). -/
  err : ErrCode
  /-- The engine phase and the latched command (R31). STATUS.BUSY is read from it. -/
  phase : Phase
  /-- The data buffer (R35). -/
  data : Memory
  /-- The frame buffer (R36). -/
  frame : Memory
  /-- TxLog (R38), oldest first. -/
  txLog : List TxRecord
  /-- `bus_rdata` of the last completed read (R43; log 11). -/
  rdata : Word
  /-- The model's own: how many free values have been used (log 3). -/
  draws : Nat
  /-- The model's own: the turns to come, next first (log 1, log 2). -/
  schedule : List Turn
  /-- The model's own: the engine slot of the turn being taken (log 1). -/
  slot : EngineSlot
  deriving DecidableEq, Repr

/-- Why a step stops. -/
inductive Fault where
  /-- A host transaction whose `bus_size` is not 2: bus error (20_memory.md R57). Raised by the bus. Safe (log 8). -/
  | busSize
  /-- A host transaction at an offset that is no multiple of 4: bus error (20_memory.md R57). Raised by the bus. Safe (log 8). -/
  | busMisaligned
  /-- A host transaction at an unmapped offset: bus error (20_memory.md R52). Raised by the bus. Safe (log 8). -/
  | busUnmapped
  /-- A checksum computed over a nonzero checksum field on the encoder path (60_exceptions.md R167). Raised by the encoders'
  check; unreachable. Safe (log 9). -/
  | checksumPrecondition
  deriving DecidableEq, Repr

/-- Why a step has no meaning. -/
inductive Refusal where
  /-- The command has no meaning in this model yet. Raised by an arm of `exec` only. Safe. -/
  | notModelled (mnemonic : String)
  deriving DecidableEq, Repr

/-- A step's answer on this machine. -/
abbrev Answer := Host.Outcome State Fault Refusal

/-- The state after power-on reset (10_state.md R41, 70_reset_and_hazards.md R180, R183): every register 0, phase IDLE, both
buffers unspecified (nothing listed), TxLog empty. `rdata`, `draws`, `schedule` and `slot` have no reset value in the spec
(log 1, log 2, log 3, log 11). -/
def State.reset : State where
  srcAddr := 0
  dstAddr := 0
  srcPort := 0
  dstPort := 0
  seq := 0
  ack := 0
  flags := 0
  payloadLen := 0
  csumBase := 0
  csumLen := 0
  csumResult := 0
  ipCsum := 0
  tcpCsum := 0
  frameLen := 0
  done := false
  ign := false
  err := .ok
  phase := .idle
  data := []
  frame := []
  txLog := []
  rdata := 0
  draws := 0
  schedule := []
  slot := .hold

end Sys2Proof.Machine
end

