-- ==== Sys2Proof/Machine/Ops.lean ====
section
/-! DEFINITION. The shared operations: byte order, byte memories, starting a command, taking an error, dropping a write. -/

namespace Sys2Proof.Machine

/-! ### Byte order (00_scope.md R9, 20_memory.md R53, R54) -/

/-- `be16(v)`: the two bytes of v, most significant first (00_scope.md R9). -/
def be16 (v : Half) : List Byte := [v.extractLsb' 8 8, v.extractLsb' 0 8]

/-- `be32(v)`: the four bytes of v, most significant first (00_scope.md R9). -/
def be32 (v : Word) : List Byte :=
  [v.extractLsb' 24 8, v.extractLsb' 16 8, v.extractLsb' 8 8, v.extractLsb' 0 8]

/-- The word whose be32 is [b0, b1, b2, b3] (20_memory.md R54). -/
def wordOf (b0 b1 b2 b3 : Byte) : Word := b0 ++ b1 ++ b2 ++ b3

/-! ### Byte memories -/

/-- The byte a memory lists at an index, `none` if it lists none. -/
def Memory.get? : Memory → Nat → Option Byte
  | [], _ => none
  | (i, b) :: m, a => if a = i then some b else Memory.get? m a

/-- Writing one byte; the list stays strictly rising. -/
def Memory.set : Memory → Nat → Byte → Memory
  | [], a, b => [(a, b)]
  | (i, c) :: m, a, b =>
    if a < i then (a, b) :: (i, c) :: m
    else if a = i then (a, b) :: m
    else (i, c) :: Memory.set m a b

/-- Writing bytes at consecutive indices from `a` on (the FrameWrite loop of 42_segment_transmit.md R145, the data-window
write of 20_memory.md R56). -/
def Memory.setBytes : Memory → Nat → List Byte → Memory
  | m, _, [] => m
  | m, a, b :: bs => Memory.setBytes (Memory.set m a b) (a + 1) bs

/-- The canonical form: indices strictly rising, each inside the 65536 bytes of a buffer (10_state.md R35, R36).
An unlisted byte reads as no fixed value, so no entry can equal it. -/
abbrev Memory.wf (m : Memory) : Prop :=
  m.Pairwise (fun x y => x.1 < y.1) ∧ ∀ c ∈ m, c.1 < 65536

/-- The value a byte reads as: the listed byte, or the free byte of number `draw` (10_state.md R35; log 3). -/
def readByte (m : Memory) (draw i : Nat) : Byte := (Memory.get? m i).getD (Config.freeByte draw)

/-- `[DataRead(i), ..., DataRead(i+n-1)]`, the k-th read using the free byte of number `draw + k` (00_scope.md R10). -/
def readSpan (m : Memory) (draw i : Nat) : Nat → List Byte
  | 0 => []
  | n + 1 => readByte m draw i :: readSpan m (draw + 1) (i + 1) n

/-- The buffer word at index i: byte i in bits [31:24] (20_memory.md R54). -/
def readBufferWord (byte : Nat → Byte) (i : Nat) : Word :=
  wordOf (byte i) (byte (i + 1)) (byte (i + 2)) (byte (i + 3))

/-! ### Starting a command, ending it, dropping a write -/

/-- BUSY reads `phase = BUSY` (10_state.md R24). -/
def State.busy (s : State) : Bool :=
  match s.phase with
  | .idle => false
  | .busy _ => true

/-- The start of CSUM, BUILD or SEND (10_state.md R31): BUSY, the command latched, DONE and ERR cleared. -/
def start (c : Command) (s : State) : State :=
  { s with phase := .busy c, done := false, err := .ok }

/-- `finish(code)` (10_state.md R31): IDLE, DONE set, ERR the code. -/
def finish (code : ErrCode) (s : State) : State :=
  { s with phase := .idle, done := true, err := code }

/-- `raise <Error>`: what taking an error does (60_exceptions.md R169). It is `finish` with the error's code: STATUS is all that is
written, nothing is saved, no mode changes and no vector is fetched. -/
def raiseError (code : ErrCode) (s : State) : State := finish code s

/-- The return from an error (60_exceptions.md R170): DONE and ERR cleared, as a STATUS write with bit 1 set does (10_state.md R25). -/
def acknowledge (s : State) : State := { s with done := false, err := .ok }

/-- A host write dropped because BUSY = 1: its target unchanged, IGN set (10_state.md R39). -/
def dropWrite (s : State) : State := { s with ign := true }

/-- A reserved command in IDLE: DONE and ERR = ILLEGAL_CMD at once, the phase stays IDLE (10_state.md R31, 60_exceptions.md R164). -/
def illegalCommand (s : State) : State := { s with done := true, err := .illegalCmd }

/-- A host write that BUSY drops: `f` in IDLE, dropped while BUSY (10_state.md R39). -/
def whenIdle (f : State → State) (s : State) : State :=
  match s.phase with
  | .idle => f s
  | .busy _ => dropWrite s

/-- `n` free values used. -/
def useDraws (n : Nat) (s : State) : State := { s with draws := s.draws + n }

end Sys2Proof.Machine
end

