-- ==== Sys2Proof/Machine/Flags.lean ====
section
/-! DEFINITION. The STATUS word and its write-1-to-clear bits, the error codes, the sink's response codes. -/

namespace Sys2Proof.Machine

/-- The number of an error code (60_exceptions.md R160). -/
def ErrCode.code : ErrCode → BitVec 4
  | .ok => 0
  | .invalidInput => 1
  | .sinkUnavailable => 2
  | .txRejected => 3
  | .illegalCmd => 4

/-- The response a `tx_resp` code stands for; 0b11 is treated as REJECTED (30_encoding.md R92). -/
def responseOf (code : BitVec 2) : SinkResponse :=
  if code = 0 then .accepted
  else if code = 1 then .unavailable
  else .rejected

/-- The code a SEND ends with for a response (42_segment_transmit.md R151). -/
def SinkResponse.errCode : SinkResponse → ErrCode
  | .accepted => .ok
  | .unavailable => .sinkUnavailable
  | .rejected => .txRejected

/-- STATUS as the host reads it (10_state.md R24): ERR in [7:4], bit 3 zero, IGN, DONE, BUSY. -/
def statusWord (s : State) : Word :=
  (0 : BitVec 24) ++ s.err.code ++ (0 : BitVec 1) ++ BitVec.ofBool s.ign ++ BitVec.ofBool s.done
    ++ BitVec.ofBool s.busy

/-- A host write of v to STATUS, performed in either phase (10_state.md R25): bit 1 clears DONE and ERR, then bit 2 clears IGN. -/
def writeStatus (v : Word) (s : State) : State :=
  let s1 := if v.getLsbD 1 then acknowledge s else s
  if v.getLsbD 2 then { s1 with ign := false } else s1

/-- FLAGS keeps v[5:0] (10_state.md R29). -/
def flagsField (v : Word) : BitVec 6 := v.extractLsb' 0 6

/-- SRC_PORT and DST_PORT keep v[15:0] (10_state.md R27). -/
def portField (v : Word) : Half := v.extractLsb' 0 16

end Sys2Proof.Machine
end

