-- ==== Sys2Proof/Machine/Checksum.lean ====
section
/-! DEFINITION. The Checksum Engine: the Internet checksum of a byte sequence (40_checksum.md R100 to R110). -/

namespace Sys2Proof.Machine

/-- The accumulator S of R100 before the fold: the exact sum of the big-endian 16-bit words; an odd trailing byte is the
high-order byte of a word whose low byte is 0 (40_checksum.md R100, R101; log 10). -/
def wordSum : List Byte → Nat
  | [] => 0
  | [b] => b.toNat * 256
  | a :: b :: rest => (a.toNat * 256 + b.toNat) + wordSum rest

/-- The end-around carry loop of R100: `while (S >> 16) != 0: S := (S >> 16) + (S & 0xFFFF)`, at most `fuel` times
(40_checksum.md R100, R102). -/
def foldCarry : Nat → Nat → Nat
  | 0, S => S
  | fuel + 1, S => if S / 65536 = 0 then S else foldCarry fuel (S / 65536 + S % 65536)

/-- The folded sum of D. A fold that is taken lowers the sum by at least 65535 and the sum is at most 65535 for each byte, so as many
folds as D has bytes are enough for the loop to end by itself (40_checksum.md R102). -/
def foldedSum (D : List Byte) : Nat := foldCarry D.length (wordSum D)

/-- `csum(D)`: the 16-bit complement of the folded sum, for any length (40_checksum.md R100). -/
def csum (D : List Byte) : Half := BitVec.ofNat 16 (0xFFFF - foldedSum D)

/-! ### The adder form (40_checksum.md R110) -/

/-- One end-around add: t := acc + w; acc := (t & 0xFFFF) + (t >> 16). -/
def endAroundAdd (acc w : Nat) : Nat := (acc + w) % 65536 + (acc + w) / 65536

/-- The adder run over the words of D from `acc`, the odd trailing byte as the word `D[N-1] << 8`. -/
def adderRun : Nat → List Byte → Nat
  | acc, [] => acc
  | acc, [b] => endAroundAdd acc (b.toNat * 256)
  | acc, a :: b :: rest => adderRun (endAroundAdd acc (a.toNat * 256 + b.toNat)) rest

/-- The 16-bit one's-complement adder form of the checksum (40_checksum.md R110). -/
def adderCsum (D : List Byte) : Half := BitVec.ofNat 16 (0xFFFF - adderRun 0 D)

end Sys2Proof.Machine
end

