-- ==== Sys2Proof/Machine/Operands.lean ====
section
/-! DEFINITION. Operand assembly: every operand of a command is a register, a parameter or data-buffer bytes (30_encoding.md R73). -/

namespace Sys2Proof.Machine

/-- MAX_PAYLOAD (00_scope.md R6). -/
def maxPayload : Nat := 65495

/-- DATA_BUF_SIZE (00_scope.md R6). -/
def dataBufSize : Nat := 65536

/-- The operands of BUILD and SEND (30_encoding.md R73). The payload length L is the length of `pay`. -/
structure Operands where
  src : Word
  dst : Word
  sport : Half
  dport : Half
  seq : Word
  ack : Word
  flags : BitVec 6
  id : Half
  win : Half
  pay : List Byte
  deriving DecidableEq, Repr

/-- L, the payload length. -/
def Operands.len (x : Operands) : Nat := x.pay.length

/-- L = PAYLOAD_LEN as a natural, not truncated (30_encoding.md R75). -/
def payloadLength (s : State) : Nat := s.payloadLen.toNat

/-- The length check of BUILD and SEND (10_state.md R30). -/
def payloadTooLong (s : State) : Bool := decide (payloadLength s > maxPayload)

/-- B of CSUM (30_encoding.md R73). -/
def spanBase (s : State) : Nat := s.csumBase.toNat

/-- N of CSUM (30_encoding.md R73). -/
def spanLength (s : State) : Nat := s.csumLen.toNat

/-- The span check of CSUM: B + N > 65536, exact sum (10_state.md R32). -/
def spanTooLong (s : State) : Bool := decide (spanBase s + spanLength s > dataBufSize)

/-- The span bytes data[B .. B+N) (40_checksum.md R109). -/
def spanBytes (s : State) : List Byte := readSpan s.data s.draws (spanBase s) (spanLength s)

/-- The payload, data-buffer bytes 0 to L-1; none is read when L = 0 (10_state.md R35, 20_memory.md R67). -/
def payloadBytes (s : State) : List Byte := readSpan s.data s.draws 0 (payloadLength s)

/-- The operands of BUILD and SEND in a state, with given parameters (30_encoding.md R73). -/
def operandsWith (p : Params) (s : State) : Operands where
  src := s.srcAddr
  dst := s.dstAddr
  sport := s.srcPort
  dport := s.dstPort
  seq := s.seq
  ack := s.ack
  flags := s.flags
  id := p.ipId
  win := p.tcpWindow
  pay := payloadBytes s

/-- The operands of BUILD and SEND on this block. -/
def operands (s : State) : Operands := operandsWith Config.params s

end Sys2Proof.Machine
end

