-- ==== Sys2Proof/Machine/Headers.lean ====
section
/-! DEFINITION. IP Header Encoder, TCP Header Encoder, Pseudo-Header Builder (41_header_encoders.md R120 to R130). -/

namespace Sys2Proof.Machine

/-! ### Fixed header values (30_encoding.md R80, R85) -/

/-- Version 4, high nibble; IHL 5, low nibble: byte 0 = 4<<4 | 5 (30_encoding.md R81). -/
def ipVersionIhl : Byte := (4 : Byte) <<< 4 ||| 5

/-- Type of service 0 (30_encoding.md R80). -/
def ipTos : Byte := 0

/-- Time to live 64 (30_encoding.md R80). -/
def ipTtl : Byte := 64

/-- Protocol 6, TCP (30_encoding.md R80). -/
def ipProtocol : Byte := 6

/-- Data offset 5, high nibble; reserved 0, low nibble: TCP byte 12 = 5<<4 (30_encoding.md R86). -/
def tcpDataOffset : Byte := (5 : Byte) <<< 4

/-- The IP total length 40 + L (41_header_encoders.md R121). -/
def ipTotalLength (L : Nat) : Half := BitVec.ofNat 16 (40 + L)

/-- The TCP segment length 20 + L (41_header_encoders.md R128). -/
def tcpSegmentLength (L : Nat) : Half := BitVec.ofNat 16 (20 + L)

/-! ### IP header -/

/-- The 20-byte IP header with checksum field c (41_header_encoders.md R122). -/
def ipHdr (L : Nat) (src dst : Word) (id c : Half) : List Byte :=
  [ipVersionIhl, ipTos] ++ be16 (ipTotalLength L) ++ be16 id ++ [0x00, 0x00] ++ [ipTtl, ipProtocol]
    ++ be16 c ++ be32 src ++ be32 dst

/-- The IP header with its checksum field zero. -/
def ipHdrZero (x : Operands) : List Byte := ipHdr x.len x.src x.dst x.id 0

/-- ip_c (41_header_encoders.md R123). -/
def ipChecksum (x : Operands) : Half := csum (ipHdrZero x)

/-- ip_hdr_final (41_header_encoders.md R123). -/
def ipHdrFinal (x : Operands) : List Byte := ipHdr x.len x.src x.dst x.id (ipChecksum x)

/-! ### TCP header -/

/-- The 20-byte TCP header with checksum field c; the flag byte is FLAGS[5:0] below two zero bits (41_header_encoders.md R125). -/
def tcpHdr (sport dport : Half) (seq ack : Word) (flags : BitVec 6) (win c : Half) : List Byte :=
  be16 sport ++ be16 dport ++ be32 seq ++ be32 ack ++ [tcpDataOffset] ++ [flags.setWidth 8]
    ++ be16 win ++ be16 c ++ [0x00, 0x00]

/-- The TCP header with its checksum field zero. -/
def tcpHdrZero (x : Operands) : List Byte := tcpHdr x.sport x.dport x.seq x.ack x.flags x.win 0

/-! ### Pseudo-header and TCP checksum -/

/-- The 12-byte pseudo-header, its addresses and protocol copied from the IP header `ip` (41_header_encoders.md R127). -/
def pseudoHdr (ip : List Byte) (L : Nat) : List Byte :=
  (ip.drop 12).take 4 ++ (ip.drop 16).take 4 ++ [0x00] ++ [ip.getD 9 0] ++ be16 (tcpSegmentLength L)

/-- The checksum-input buffer: pseudo-header, TCP header with zero checksum, payload (30_encoding.md R91, 41_header_encoders.md R129). -/
def checksumInput (x : Operands) : List Byte :=
  pseudoHdr (ipHdrZero x) x.len ++ tcpHdrZero x ++ x.pay

/-- tcp_c (41_header_encoders.md R129). -/
def tcpChecksum (x : Operands) : Half := csum (checksumInput x)

/-- tcp_hdr_final (41_header_encoders.md R129). -/
def tcpHdrFinal (x : Operands) : List Byte :=
  tcpHdr x.sport x.dport x.seq x.ack x.flags x.win (tcpChecksum x)

/-! ### The defensive check (60_exceptions.md R167) -/

/-- Whether the 16-bit field at offset `off` is zero. -/
def fieldIsZero (D : List Byte) (off : Nat) : Bool := D.getD off 0 == 0 && D.getD (off + 1) 0 == 0

/-- Both checksum fields of the encoder path are zero when summed: IP header offset 10, checksum input offset 28
(60_exceptions.md R167, 40_checksum.md R108). -/
def checksumFieldsZero (x : Operands) : Bool :=
  fieldIsZero (ipHdrZero x) 10 && fieldIsZero (checksumInput x) 28

end Sys2Proof.Machine
end

