-- ==== Sys2Proof/Machine/Engine.lean ====
section
/-! DEFINITION. The Segment Assembler, the Transmitter and the engine step (10_state.md R31, 42_segment_transmit.md). -/

namespace Sys2Proof.Machine

/-! ### Segment Assembler -/

/-- The frame: ip_hdr_final ++ tcp_hdr_final ++ pay (42_segment_transmit.md R140). -/
def frameOf (x : Operands) : List Byte := ipHdrFinal x ++ tcpHdrFinal x ++ x.pay

/-- Writing the results of a BUILD or SEND (42_segment_transmit.md R145). -/
def writeResults (x : Operands) (s : State) : State :=
  { s with
    frame := Memory.setBytes s.frame 0 (frameOf x)
    ipCsum := ipChecksum x
    tcpCsum := tcpChecksum x
    frameLen := BitVec.ofNat 16 (40 + x.len) }

/-- The steps of BUILD after the length check, up to and including the results (42_segment_transmit.md R143, R145). The L payload
reads use L free values where the bytes are unspecified (log 3, log 16). A nonzero checksum field is the fault of 60_exceptions.md R167. -/
def assembleWith (p : Params) (s : State) : Except Fault State :=
  if checksumFieldsZero (operandsWith p s) then
    .ok (useDraws (payloadLength s) (writeResults (operandsWith p s) s))
  else .error .checksumPrecondition

/-! ### The sink (42_segment_transmit.md R150) -/

/-- The log record of `SinkSend(DST_ADDR, DST_PORT, f)` answered by `r` (10_state.md R38). -/
def txRecord (s : State) (f : List Byte) (r : SinkResponse) : TxRecord :=
  { dstAddr := s.dstAddr, dstPort := s.dstPort, frame := f, response := r }

/-- One record appended to TxLog (10_state.md R38). -/
def logSend (t : TxRecord) (s : State) : State := { s with txLog := s.txLog ++ [t] }

/-! ### The engine step of each command -/

/-- The result of a CSUM (10_state.md R33). -/
def writeChecksum (c : Half) (s : State) : State := { s with csumResult := c }

/-- The engine step of CSUM (40_checksum.md R109). -/
def runCsum (s : State) : Answer :=
  if spanTooLong s then .next (raiseError .invalidInput s)
  else .next (finish .ok (useDraws (spanLength s) (writeChecksum (csum (spanBytes s)) s)))

/-- The engine step of BUILD (42_segment_transmit.md R143), with given parameters. -/
def runBuildWith (p : Params) (s : State) : Answer :=
  if payloadTooLong s then .next (raiseError .invalidInput s)
  else
    match assembleWith p s with
    | .error f => .fault f
    | .ok t => .next (finish .ok t)

/-- The engine step of SEND (42_segment_transmit.md R144), with given parameters. Past the length check the step is enabled only
when the sink presents a response (10_state.md R31): without one nothing changes and the engine stays BUSY. -/
def runSendWith (p : Params) (sink : Option (BitVec 2)) (s : State) : Answer :=
  if payloadTooLong s then .next (raiseError .invalidInput s)
  else
    match sink with
    | none => .next s
    | some code =>
      match assembleWith p s with
      | .error f => .fault f
      | .ok t =>
        .next (finish (responseOf code).errCode
          (logSend (txRecord s (frameOf (operandsWith p s)) (responseOf code)) t))

/-- The engine step: the latched command, performed whole (10_state.md R31). -/
def engineStepWith (p : Params) (c : Command) (sink : Option (BitVec 2)) (s : State) : Answer :=
  match c with
  | .csum => runCsum s
  | .build => runBuildWith p s
  | .send => runSendWith p sink s

/-- The engine's part of the turn: at most one engine step, when the slot gives one and the phase is BUSY (10_state.md R31,
20_memory.md R61; log 1). -/
def engineTurnWith (p : Params) (s : State) : Answer :=
  match s.phase with
  | .idle => .next s
  | .busy c =>
    match s.slot with
    | .hold => .next s
    | .go sink => engineStepWith p c sink s

/-- The engine's part of the turn on this block. -/
def engineTurn (s : State) : Answer := engineTurnWith Config.params s

end Sys2Proof.Machine
end

