-- ==== Sys2Proof/Machine/Commands.lean ====
section
/-! DEFINITION. The meaning of each command: its CTRL write, then the engine's part of the turn. -/

namespace Sys2Proof.Machine

/-- NOP (30_encoding.md R72): nothing in IDLE; dropped while BUSY. -/
def execNop (_ign : BitVec 29) (s : State) : Answer := engineTurn (whenIdle (fun t => t) s)

/-- CSUM (10_state.md R31, 40_checksum.md R109): in IDLE the start, then the engine's part of the turn; dropped while BUSY. -/
def execCsum (_ign : BitVec 29) (s : State) : Answer := engineTurn (whenIdle (start .csum) s)

/-- BUILD (10_state.md R31, 42_segment_transmit.md R143): in IDLE the start, then the engine's part of the turn; dropped while BUSY. -/
def execBuild (_ign : BitVec 29) (s : State) : Answer := engineTurn (whenIdle (start .build) s)

/-- SEND (10_state.md R31, 42_segment_transmit.md R144): in IDLE the start, then the engine's part of the turn; dropped while BUSY. -/
def execSend (_ign : BitVec 29) (s : State) : Answer := engineTurn (whenIdle (start .send) s)

/-- A reserved command (60_exceptions.md R164): ILLEGAL_CMD at once in IDLE; dropped while BUSY. -/
def execReserved (_cmd : BitVec 3) (_ign : BitVec 29) (s : State) : Answer :=
  engineTurn (whenIdle illegalCommand s)

end Sys2Proof.Machine
end

