-- ==== Sys2Proof/Machine/Dispatch.lean ====
section
/-! DEFINITION. One arm per command: which meaning runs it. -/

namespace Sys2Proof.Machine

def exec (i : Instr) (s : State) : Host.Outcome State Fault Refusal :=
  match i with
  | .nop ign => Sys2Proof.Machine.execNop ign s
  | .csum ign => Sys2Proof.Machine.execCsum ign s
  | .build ign => Sys2Proof.Machine.execBuild ign s
  | .send ign => Sys2Proof.Machine.execSend ign s
  | .reserved cmd ign => Sys2Proof.Machine.execReserved cmd ign s

end Sys2Proof.Machine
end

