-- ==== Sys2Proof/Machine/Bus.lean ====
section
/-! DEFINITION. The host side: address map, host reads and writes, reset, and one turn of the machine (20_memory.md, 70_reset_and_hazards.md). -/

namespace Sys2Proof.Machine

/-! ### The address map (20_memory.md R51) -/

/-- The read-write input registers (10_state.md R22). -/
inductive InputReg where
  | srcAddr
  | dstAddr
  | srcPort
  | dstPort
  | seq
  | ack
  | flags
  | payloadLen
  | csumBase
  | csumLen
  deriving DecidableEq, Repr

/-- The read-only result registers (10_state.md R33). -/
inductive ResultReg where
  | csumResult
  | ipCsum
  | tcpCsum
  | frameLen
  deriving DecidableEq, Repr

/-- A host-visible register (10_state.md R22). -/
inductive Reg where
  | ctrl
  | status
  | input (r : InputReg)
  | result (r : ResultReg)
  deriving DecidableEq, Repr

/-- What an offset names (20_memory.md R51). -/
inductive Region where
  | reg (r : Reg)
  | data (i : Nat)
  | frame (i : Nat)
  | unmapped
  deriving DecidableEq, Repr

/-- The register at word index k of the register region, offset 4k (10_state.md R22). -/
def regAt : Nat → Reg
  | 0 => .ctrl
  | 1 => .status
  | 2 => .input .srcAddr
  | 3 => .input .dstAddr
  | 4 => .input .srcPort
  | 5 => .input .dstPort
  | 6 => .input .seq
  | 7 => .input .ack
  | 8 => .input .flags
  | 9 => .input .payloadLen
  | 10 => .input .csumBase
  | 11 => .input .csumLen
  | 12 => .result .csumResult
  | 13 => .result .ipCsum
  | 14 => .result .tcpCsum
  | _ => .result .frameLen

/-- The offset of a register (10_state.md R22). -/
def Reg.offset : Reg → Nat
  | .ctrl => 0x00
  | .status => 0x04
  | .input .srcAddr => 0x08
  | .input .dstAddr => 0x0C
  | .input .srcPort => 0x10
  | .input .dstPort => 0x14
  | .input .seq => 0x18
  | .input .ack => 0x1C
  | .input .flags => 0x20
  | .input .payloadLen => 0x24
  | .input .csumBase => 0x28
  | .input .csumLen => 0x2C
  | .result .csumResult => 0x30
  | .result .ipCsum => 0x34
  | .result .tcpCsum => 0x38
  | .result .frameLen => 0x3C

/-- The address map (20_memory.md R51). A window offset 0x10000 + i or 0x20000 + i with i < 65536 has the index i, its remainder
by 0x10000. -/
def regionOf (a : Nat) : Region :=
  if a < 0x40 then .reg (regAt (a / 4))
  else if a < 0x10000 then .unmapped
  else if a < 0x20000 then .data (a % 0x10000)
  else if a < 0x30000 then .frame (a % 0x10000)
  else .unmapped

/-- The bus errors: a size other than 4 bytes, a misaligned offset, an unmapped offset (20_memory.md R52, R57; log 8). -/
def busFault (t : BusTxn) : Option Fault :=
  if t.size ≠ 2 then some .busSize
  else if t.addr.toNat % 4 ≠ 0 then some .busMisaligned
  else if regionOf t.addr.toNat = .unmapped then some .busUnmapped
  else none

/-! ### Host reads (20_memory.md R55) -/

/-- The stored value of an input register, unused bits 0 (10_state.md R22, R26 to R32). -/
def readInput (s : State) : InputReg → Word
  | .srcAddr => s.srcAddr
  | .dstAddr => s.dstAddr
  | .srcPort => s.srcPort.setWidth 32
  | .dstPort => s.dstPort.setWidth 32
  | .seq => s.seq
  | .ack => s.ack
  | .flags => s.flags.setWidth 32
  | .payloadLen => s.payloadLen
  | .csumBase => s.csumBase
  | .csumLen => s.csumLen

/-- The stored value of a result register, bits [31:16] 0 (10_state.md R33). -/
def readResult (s : State) : ResultReg → Word
  | .csumResult => s.csumResult.setWidth 32
  | .ipCsum => s.ipCsum.setWidth 32
  | .tcpCsum => s.tcpCsum.setWidth 32
  | .frameLen => s.frameLen.setWidth 32

/-- Byte j of the frame window: frame byte j below FRAME_LEN, else a free byte (10_state.md R36, 20_memory.md R55; log 4). -/
def frameWindowByte (s : State) (draw j : Nat) : Byte :=
  if j < s.frameLen.toNat then readByte s.frame draw j else Config.freeByte draw

/-- The word a host read returns (20_memory.md R55). While BUSY the result registers and the frame window return a free word
(10_state.md R40); CTRL returns 0 (10_state.md R23); an unmapped offset returns 0 with its bus error (20_memory.md R52). -/
def readValue (a : Nat) (s : State) : Word :=
  match regionOf a with
  | .reg .ctrl => 0
  | .reg .status => statusWord s
  | .reg (.input r) => readInput s r
  | .reg (.result r) => if s.busy then Config.freeWord s.draws else readResult s r
  | .data i => readBufferWord (fun j => readByte s.data (s.draws + (j - i)) j) i
  | .frame i =>
    if s.busy then Config.freeWord s.draws
    else readBufferWord (fun j => frameWindowByte s (s.draws + (j - i)) j) i
  | .unmapped => 0

/-- A host read: the read data on the bus, four free values used at most (20_memory.md R55; log 3). -/
def hostRead (a : Nat) (s : State) : State :=
  { s with rdata := readValue a s, draws := s.draws + 4 }

/-! ### Host writes (20_memory.md R56) -/

/-- Storing v into an input register, masked to the bits it uses (10_state.md R26 to R32). -/
def storeInput (r : InputReg) (v : Word) (s : State) : State :=
  match r with
  | .srcAddr => { s with srcAddr := v }
  | .dstAddr => { s with dstAddr := v }
  | .srcPort => { s with srcPort := portField v }
  | .dstPort => { s with dstPort := portField v }
  | .seq => { s with seq := v }
  | .ack => { s with ack := v }
  | .flags => { s with flags := flagsField v }
  | .payloadLen => { s with payloadLen := v }
  | .csumBase => { s with csumBase := v }
  | .csumLen => { s with csumLen := v }

/-- Storing the word v at data-buffer bytes i to i+3, most significant byte first (20_memory.md R54, R56). -/
def storeData (i : Nat) (v : Word) (s : State) : State :=
  { s with data := Memory.setBytes s.data i (be32 v) }

/-- A host write to a place other than CTRL (20_memory.md R56): STATUS is always performed, input registers and the data window are
dropped while BUSY (10_state.md R39), read-only registers and the frame window are ignored (10_state.md R34). -/
def hostStore (g : Region) (v : Word) (s : State) : State :=
  match g with
  | .reg .ctrl => s
  | .reg .status => writeStatus v s
  | .reg (.input r) => whenIdle (storeInput r v) s
  | .reg (.result _) => s
  | .data i => whenIdle (storeData i v) s
  | .frame _ => s
  | .unmapped => s

/-- A host write and the engine's part of the turn: a CTRL write runs the command it decodes to (10_state.md R31), any other write
is a store (20_memory.md R56). -/
def hostWrite (a : Nat) (v : Word) (s : State) : Answer :=
  if regionOf a = .reg .ctrl then exec (decodeCtrl v) s
  else engineTurn (hostStore (regionOf a) v s)

/-- One bus transaction and the engine's part of the turn; a bus error is a fault of the host (60_exceptions.md R166). -/
def busTurn (t : BusTxn) (s : State) : Answer :=
  match busFault t with
  | some f => .fault f
  | none => if t.wr then hostWrite t.addr.toNat t.wdata s else engineTurn (hostRead t.addr.toNat s)

/-- The turn of a machine whose schedule is used up: the host does nothing, the engine may step, the sink is silent (log 2). -/
def idleTurn : Turn := ⟨.quiet, .go none⟩

/-- The next read of a WAIT loop: its engine slot is the first of those given for the later reads; past them the engine is scheduled
and the sink is silent, as in `idleTurn`, so the engine step is always taken eventually (70_reset_and_hazards.md R196; log 13). -/
def nextWait (later : List EngineSlot) : Turn := ⟨.wait later.tail, later.headD idleTurn.engine⟩

/-- One read of a WAIT loop: a read of STATUS; while the value read has BUSY = 1 the loop goes on, so its next read stands at the head
of the schedule (30_encoding.md R78; log 13). DESIGN CHOICE: no reset comes between two reads of a WAIT, where the spec allows `rst` at any
clock edge (70_reset_and_hazards.md R180, R182); a reset during the loop is a schedule of single STATUS reads, then the reset (log 13). -/
def waitTurn (later : List EngineSlot) (s : State) : Answer :=
  engineTurn (if s.busy then { hostRead 0x04 s with schedule := nextWait later :: s.schedule } else hostRead 0x04 s)

/-! ### Reset (70_reset_and_hazards.md R180, R182) -/

/-- The registers, the engine and the buffers after a reset; TxLog survives it (10_state.md R41), and so do the read data on the bus
and the model's own fields (log 11, log 12). -/
def resetBlock (s : State) : State :=
  { State.reset with
    txLog := s.txLog, rdata := s.rdata, draws := s.draws, schedule := s.schedule, slot := s.slot }

/-- A reset with given parameters. A SEND it abandons, past its length check, leaves TxLog as it is (`cut` none) or with one
record of a part of the frame, from its first byte on, and any response (70_reset_and_hazards.md R182; log 7). -/
def resetWith (p : Params) (cut : Option (Nat × BitVec 2)) (s : State) : State :=
  match s.phase, cut with
  | .busy .send, some (k, code) =>
    if payloadTooLong s then resetBlock s
    else
      resetBlock (useDraws (payloadLength s)
        (logSend (txRecord s ((frameOf (operandsWith p s)).take k) (responseOf code)) s))
  | _, _ => resetBlock s

/-- A reset of this block. -/
def resetTurn (cut : Option (Nat × BitVec 2)) (s : State) : Answer := .next (resetWith Config.params cut s)

/-! ### One turn -/

/-- The next turn. -/
def nextTurn (s : State) : Turn := s.schedule.headD idleTurn

/-- The state in which the next turn is taken: its entry is off the schedule and its engine slot is the current one. -/
def beginTurn (s : State) : State :=
  { s with schedule := s.schedule.tail, slot := (nextTurn s).engine }

/-- One turn: the host's act, then at most one engine step (20_memory.md R58, R61; log 1). -/
def takeTurn (t : Turn) (s : State) : Answer :=
  match t.host with
  | .quiet => engineTurn s
  | .bus b => busTurn b s
  | .wait later => waitTurn later s
  | .reset cut => resetTurn cut s

end Sys2Proof.Machine
end

