-- ==== Sys2Proof/Machine/Step.lean ====
section
/-! DEFINITION. One step of the machine, and how a command word is placed where the next step takes it. -/

namespace Sys2Proof.Machine

/-- One step is the next turn of the schedule (log 1). -/
def step (s : State) : Host.Outcome State Fault Refusal := takeTurn (nextTurn s) (beginTurn s)

/-- The command word w placed as the next turn: the host writes it to CTRL, the engine is scheduled and the sink presents a free
response code. The block fetches no instructions (20_memory.md R65), so this stands for the host's script being loaded (log 15).
DESIGN CHOICE: the code is numbered by `draws`, which a SEND with PAYLOAD_LEN = 0 does not advance, so two SENDs placed with the same
`draws` share one response, where the spec draws one for each SEND (10_state.md R20, 42_segment_transmit.md R150; log 15). -/
def State.withFetchWord (s : State) (nbits w : Nat) : State :=
  { s with
    schedule :=
      ⟨.bus { wr := true, addr := 0, size := 2, wdata := BitVec.ofNat 32 (w % 2 ^ nbits) },
        .go (some (Config.freeSinkCode s.draws))⟩ :: s.schedule }

end Sys2Proof.Machine
end

