-- ==== Sys2Proof/Machine/Script.lean ====
section
/-! DEFINITION. Host scripts: their lines and their expansion into host acts (30_encoding.md R77, R78), and the base address. -/

namespace Sys2Proof.Machine

/-- The target of a W or R line (30_encoding.md R77). -/
inductive Target where
  | reg (r : Reg)
  | data (i : Nat)
  | frame (i : Nat)
  | literal (offset : BitVec 18)
  deriving DecidableEq, Repr

/-- A line of a host script (30_encoding.md R77, R78). -/
inductive Line where
  | write (t : Target) (v : Word)
  | read (t : Target)
  | start (c : Command)
  | wait
  | clear
  | load (i : Nat) (bytes : List Byte)
  | set (r : Reg) (v : Word)
  deriving DecidableEq, Repr

/-- The offset a target names (30_encoding.md R77). DESIGN CHOICE: a `DATA+<i>` or `FRAME+<i>` whose offset exceeds the 18-bit offset
space has no meaning in the spec; here the offset is cut modulo 2^18, so that DATA+0x30000 names offset 0 (log 21). -/
def Target.offset : Target → BitVec 18
  | .reg r => BitVec.ofNat 18 r.offset
  | .data i => BitVec.ofNat 18 (0x10000 + i)
  | .frame i => BitVec.ofNat 18 (0x20000 + i)
  | .literal o => o

/-- `MemWrite(offset, 4, v)` as a host act. -/
def memWrite (o : BitVec 18) (v : Word) : HostAct := .bus { wr := true, addr := o, size := 2, wdata := v }

/-- `MemRead(offset, 4)` as a host act. -/
def memRead (o : BitVec 18) : HostAct := .bus { wr := false, addr := o, size := 2, wdata := 0 }

/-- The CTRL word that starts a command: CSUM 1, BUILD 2, SEND 3 (30_encoding.md R78). -/
def startWord : Command → Word
  | .csum => 1
  | .build => 2
  | .send => 3

/-- The writes of `LOAD i, bytes`: one word for each four bytes, bytes past the last taken as 0 (30_encoding.md R78). -/
def loadActs (i : Nat) : List Byte → List HostAct
  | [] => []
  | [a] => [memWrite (Target.data i).offset (wordOf a 0 0 0)]
  | [a, b] => [memWrite (Target.data i).offset (wordOf a b 0 0)]
  | [a, b, c] => [memWrite (Target.data i).offset (wordOf a b c 0)]
  | a :: b :: c :: d :: rest => memWrite (Target.data i).offset (wordOf a b c d) :: loadActs (i + 4) rest

/-- The host acts a line expands to (30_encoding.md R77, R78). -/
def Line.expand : Line → List HostAct
  | .write t v => [memWrite t.offset v]
  | .read t => [memRead t.offset]
  | .start c => [memWrite (Target.reg .ctrl).offset (startWord c)]
  | .wait => [.wait []]
  | .clear => [memWrite (Target.reg .status).offset 0x00000006]
  | .load i bytes => loadActs i bytes
  | .set r v => [memWrite (Target.reg r).offset v]

/-- A host act with the engine slots given for it: the first is that of its turn, `hold` where none is given; the others are those of a
WAIT's later reads (log 13). -/
def HostAct.withSlots (a : HostAct) (slots : List EngineSlot) : Turn :=
  match a with
  | .quiet => ⟨.quiet, slots.headD .hold⟩
  | .bus t => ⟨.bus t, slots.headD .hold⟩
  | .wait _ => ⟨.wait slots.tail, slots.headD .hold⟩
  | .reset cut => ⟨.reset cut, slots.headD .hold⟩

/-- A script as a schedule: the acts of its lines in order, each with the engine slots given for it. -/
def scheduleOf (script : List Line) (slots : List (List EngineSlot)) : List Turn :=
  (script.flatMap Line.expand).mapIdx fun k a => a.withSlots (slots.getD k [])

/-- The block offset of a platform address: the 18-bit offset from P_BASE, if the address is one of this block's
(20_memory.md R50; log 5). -/
def blockOffset (base platformAddr : Nat) : Option (BitVec 18) :=
  if base ≤ platformAddr ∧ platformAddr - base < 2 ^ 18 then some (BitVec.ofNat 18 (platformAddr - base))
  else none

/-- The block offset of a platform address on this block. -/
def thisBlockOffset (platformAddr : Nat) : Option (BitVec 18) := blockOffset Config.base platformAddr

end Sys2Proof.Machine
end

