-- ==== Sys2Proof/Safety.lean ====
section
/-! DEFINITION. What the claims say of a state: legal operands, the invariant every step keeps, and the turns the claims name. -/

namespace Sys2Proof.Machine

/-- Operands past the length check: L in 0 to 65495 (10_state.md R30). -/
def Operands.Legal (x : Operands) : Prop := x.len ≤ maxPayload

/-- The frame buffer's first FRAME_LEN bytes are exactly the bytes `f` (10_state.md R36). -/
def State.frameIs (s : State) (f : List Byte) : Prop :=
  s.frameLen.toNat = f.length ∧ ∀ j, j < f.length → Memory.get? s.frame j = f[j]?

/-- Before the first frame the three frame registers are 0; after it the frame buffer and the registers are those of one legal
BUILD or SEND, whatever came later (10_state.md R33, 42_segment_transmit.md R145). -/
def State.FrameOk (s : State) : Prop :=
  (s.frameLen = 0 ∧ s.ipCsum = 0 ∧ s.tcpCsum = 0) ∨
  ∃ x : Operands, x.Legal ∧ s.frameIs (frameOf x) ∧ s.ipCsum = ipChecksum x ∧ s.tcpCsum = tcpChecksum x

/-- A log record is a part, from its first byte on, of the frame of some legal operands with the record's destination
(10_state.md R38, 70_reset_and_hazards.md R182). -/
def TxRecord.Ok (t : TxRecord) : Prop :=
  ∃ (x : Operands) (k : Nat),
    x.Legal ∧ t.frame = (frameOf x).take k ∧ t.dstAddr = x.dst ∧ t.dstPort = x.dport

/-- The invariant of the machine. -/
structure State.Inv (s : State) : Prop where
  /-- The data buffer is in canonical form. -/
  data_wf : Memory.wf s.data
  /-- The frame buffer is in canonical form. -/
  frame_wf : Memory.wf s.frame
  /-- While BUSY, DONE = 0: a start clears it and only the finish sets it (10_state.md R31, 70_reset_and_hazards.md R193). -/
  busy_not_done : s.busy = true → s.done = false
  /-- ERR is the code of a finished command: it is 0 while DONE = 0 (10_state.md R25, R31). -/
  err_of_done : s.done = false → s.err = .ok
  /-- The frame buffer and the frame registers belong together. -/
  frame_ok : s.FrameOk
  /-- Every record of TxLog is a part of a legal frame. -/
  log_ok : ∀ t ∈ s.txLog, t.Ok

/-- The next part of a run, if the first answered a next state. -/
def andThen (o : Answer) (f : State → Answer) : Answer :=
  match o with
  | .next s => f s
  | .fault r => .fault r
  | .refused r => .refused r

/-- `k` steps, stopping at the first fault or refusal. -/
def runSteps : Nat → State → Answer
  | 0, s => .next s
  | k + 1, s => andThen (step s) (runSteps k)

/-- A turn in which the host writes v to CTRL. -/
def ctrlTurn (v : Word) (slot : EngineSlot) : Turn := ⟨memWrite 0 v, slot⟩

/-- A turn in which the host does nothing. -/
def quietTurn (slot : EngineSlot) : Turn := ⟨.quiet, slot⟩

/-- Whether a turn resets the block. -/
def Turn.isReset (t : Turn) : Bool :=
  match t.host with
  | .reset _ => true
  | _ => false

/-- Whether the command `c` is in progress in `s` or is started by its next turn (10_state.md R31). -/
def State.running (s : State) (c : Command) : Prop :=
  s.phase = .busy c ∨
    s.phase = .idle ∧ ∃ v : Word, (nextTurn s).host = memWrite 0 v ∧ cmdField v = cmdField (startWord c)

/-- Whether a SEND past its length check is in progress in `s` or is started by its next turn. -/
def State.sending (s : State) : Prop := payloadTooLong s = false ∧ s.running .send

/-- Whether a BUILD or SEND past its length check is in progress in `s` or is started by its next turn. -/
def State.assembling (s : State) : Prop := payloadTooLong s = false ∧ (s.running .build ∨ s.running .send)

/-! ### Fairness (70_reset_and_hazards.md R196)

The engine step of a CSUM, a BUILD and a SEND that fails its length check is taken eventually in every run: a schedule is a finite list,
a WAIT has finitely many slots given for its reads, and past both the engine is scheduled. For a SEND that passes its length check the
premise is about the sink, and it is the one below. -/

/-- Whether the sink presents a response in the turn and the engine is scheduled to take it (42_segment_transmit.md R150). -/
def EngineSlot.answers : EngineSlot → Bool
  | .hold => false
  | .go none => false
  | .go (some _) => true

/-- The premise about the sink: a schedule from BUSY on a SEND brings an answer or a reset. A WAIT goes on while BUSY, so nothing after
one, a reset included, comes before the answer (70_reset_and_hazards.md R182, R196; the model's choice, log 13). -/
def endsSend : List Turn → Bool
  | [] => false
  | t :: rest =>
    match t.host with
    | .reset _ => true
    | .wait later => t.engine.answers || later.any EngineSlot.answers
    | .quiet => t.engine.answers || endsSend rest
    | .bus _ => t.engine.answers || endsSend rest

/-- A SEND in progress is as it was: BUSY on SEND, and TxLog, the frame and the results are those of `s`. -/
def State.StillSending (s t : State) : Prop :=
  t.phase = .busy .send ∧ t.txLog = s.txLog ∧ t.frame = s.frame ∧ t.ipCsum = s.ipCsum ∧ t.tcpCsum = s.tcpCsum ∧
    t.frameLen = s.frameLen ∧ t.csumResult = s.csumResult

/-- The bits an input register uses (10_state.md R22). -/
def inputMask : InputReg → Word
  | .srcPort => 0x0000FFFF
  | .dstPort => 0x0000FFFF
  | .flags => 0x0000003F
  | .srcAddr => 0xFFFFFFFF
  | .dstAddr => 0xFFFFFFFF
  | .seq => 0xFFFFFFFF
  | .ack => 0xFFFFFFFF
  | .payloadLen => 0xFFFFFFFF
  | .csumBase => 0xFFFFFFFF
  | .csumLen => 0xFFFFFFFF

end Sys2Proof.Machine
end

