-- ==== Sys2Proof/Certificates/Slice0/Obligations.lean ====
section
/-! DEFINITION. The statements for the provers. -/

open Sys2Proof Sys2Proof.Machine

/-! ### Encoding of commands -/

/-- Decode and encode agree: every command, with every value of its fields, is read back from its word (30_encoding.md R70). -/
def Obligations.DecodeOfEncodeIsIdentity : Prop :=
  ∀ i : Instr, i.WellFormed → decodeCtrl (encode i) = i

/-- The other direction: every CTRL word is the word of the well-formed command it decodes to, and that command's row is the one row of
spec/opcode_table.json whose match and mask fit the word (30_encoding.md R70, R76). -/
def Obligations.EveryWordIsTheCommandOfItsTableRow : Prop :=
  ∀ v : Word,
    (decodeCtrl v).WellFormed ∧ encode (decodeCtrl v) = v ∧
    v &&& tableMask (decodeCtrl v) = tableMatch (decodeCtrl v) ∧
    ∀ i : Instr, i.WellFormed → v &&& tableMask i = tableMatch i → tableMatch i = tableMatch (decodeCtrl v)

/-- "The reserved bits [31:3] of a CTRL write never change what the write does" (30_encoding.md R71). -/
def Obligations.ReservedBitsNeverChangeTheCommand : Prop :=
  (∀ (v v' : Word) (slot : EngineSlot) (rest : List Turn) (s : State), cmdField v = cmdField v' →
    step { s with schedule := ctrlTurn v slot :: rest } = step { s with schedule := ctrlTurn v' slot :: rest }) ∧
  ∀ (slot : EngineSlot) (rest : List Turn) (s : State),
    step { s with schedule := ctrlTurn 0x00000009 slot :: rest }
      = step { s with schedule := ctrlTurn 0x00000001 slot :: rest }

/-- The words of the command map decode to the commands they stand for, and one word is one command
(30_encoding.md R70, R71, R76). -/
def Obligations.WordsOfTheCommandMapDecode : Prop :=
  decodeCtrl 0x00000000 = .nop 0 ∧ decodeCtrl 0x00000001 = .csum 0 ∧ decodeCtrl 0x00000002 = .build 0 ∧
  decodeCtrl 0x00000003 = .send 0 ∧ decodeCtrl 0x00000004 = .reserved 4 0 ∧
  decodeCtrl 0x00000007 = .reserved 7 0 ∧ decodeCtrl 0x00000009 = .csum 1 ∧
  decodeCtrl 0xFFFFFFFB = .send 0x1FFFFFFF ∧
  (∀ v : Word, decode [v] = .ok (decodeCtrl v)) ∧ decode [] = .error .notOneWord ∧
  ∀ (v w : Word) (ws : List Word), decode (v :: w :: ws) = .error .notOneWord

/-! ### A step -/

/-- A step whose turn writes a word to CTRL runs the command the word decodes to, with the engine slot of that turn
(10_state.md R23, R31; the turn is the model's, log 1). The same holds of a word placed by `withFetchWord` (log 15). -/
def Obligations.StepRunsTheDecodedCommand : Prop :=
  (∀ (v : Word) (slot : EngineSlot) (rest : List Turn) (s : State), s.schedule = ctrlTurn v slot :: rest →
    step s = exec (decodeCtrl v) { s with schedule := rest, slot := slot }) ∧
  ∀ (w : Nat) (s : State), w < 2 ^ 32 →
    step (s.withFetchWord 32 w)
      = exec (decodeCtrl (BitVec.ofNat 32 w)) { s with slot := .go (some (Config.freeSinkCode s.draws)) }

/-- A turn in which the host does nothing is the engine's part alone; past the end of the schedule the engine is scheduled and the
sink is silent. A turn with a bus transaction is that transaction, and one the bus lets through is a host write or a host read at its
offset, then the engine's part (20_memory.md R55, R56, R61; the turn is the model's choice, log 1 and log 2). -/
def Obligations.QuietTurnIsTheEngineAlone : Prop :=
  (∀ (slot : EngineSlot) (rest : List Turn) (s : State), s.schedule = quietTurn slot :: rest →
    step s = engineTurn { s with schedule := rest, slot := slot }) ∧
  (∀ s : State, s.schedule = [] → step s = engineTurn { s with slot := .go none }) ∧
  (∀ s : State, s.phase = .idle → engineTurn s = .next s) ∧
  (∀ (b : BusTxn) (slot : EngineSlot) (rest : List Turn) (s : State), s.schedule = ⟨.bus b, slot⟩ :: rest →
    step s = busTurn b { s with schedule := rest, slot := slot }) ∧
  ∀ (b : BusTxn) (s : State), busFault b = none →
    (b.wr = true → busTurn b s = hostWrite b.addr.toNat b.wdata s) ∧
    (b.wr = false → busTurn b s = engineTurn (hostRead b.addr.toNat s) ∧
      (hostRead b.addr.toNat s).rdata = readValue b.addr.toNat s)

/-! ### The commands -/

/-- NOP: "It does not set BUSY or DONE and does not change ERR or IGN"; while BUSY it is dropped and sets IGN (30_encoding.md R72; the
engine slot is the model's, log 1). -/
def Obligations.NopLeavesTheStateUnchanged : Prop :=
  ∀ (g : BitVec 29) (s : State),
    (s.phase = .idle → exec (.nop g) s = .next s) ∧
    ∀ c, s.phase = .busy c → s.slot = .hold → exec (.nop g) s = .next { s with ign := true }

/-- A CTRL word whose CMD is 4 to 7 is a reserved command; in IDLE: "STATUS.DONE <- 1, STATUS.ERR <- 4, and nothing else changes"; while
BUSY it is dropped (60_exceptions.md R164; the engine slot is the model's, log 1). -/
def Obligations.ReservedCommandReportsIllegalCmd : Prop :=
  (∀ v : Word, 4 ≤ (cmdField v).toNat → decodeCtrl v = .reserved (cmdField v) (ignField v)) ∧
  ∀ (cmd : BitVec 3) (g : BitVec 29) (s : State),
    (s.phase = .idle → exec (.reserved cmd g) s = .next { s with done := true, err := .illegalCmd }) ∧
    ∀ c, s.phase = .busy c → s.slot = .hold → exec (.reserved cmd g) s = .next { s with ign := true }

/-- A start in IDLE, the engine not yet scheduled: BUSY, the command latched, DONE and ERR cleared, nothing else (10_state.md R31). -/
def Obligations.StartLatchesTheCommand : Prop :=
  ∀ (g : BitVec 29) (s : State), s.phase = .idle → s.slot = .hold →
    exec (.csum g) s = .next { s with phase := .busy .csum, done := false, err := .ok } ∧
    exec (.build g) s = .next { s with phase := .busy .build, done := false, err := .ok } ∧
    exec (.send g) s = .next { s with phase := .busy .send, done := false, err := .ok }

/-- CSUM: the checksum of the span into CSUM_RESULT and nothing else changed but STATUS; INVALID_INPUT when B + N > 65536, exact sum,
"CSUM_RESULT then keeps its old value" (40_checksum.md R109). Where the span's bytes are all written they are what is summed;
The engine slot and the counter `draws`, which grows by N, are the model's (log 1, log 3). -/
def Obligations.CsumWritesTheSpanChecksum : Prop :=
  ∀ (g : BitVec 29) (s : State) (sink : Option (BitVec 2)), s.phase = .idle → s.slot = .go sink →
    (s.csumBase.toNat + s.csumLen.toNat ≤ 65536 →
      exec (.csum g) s
        = .next { s with
            csumResult := csum (spanBytes s), done := true, err := .ok,
            draws := s.draws + s.csumLen.toNat } ∧
      ∀ D : List Byte, D.length = s.csumLen.toNat →
        (∀ k, k < D.length → Memory.get? s.data (s.csumBase.toNat + k) = D[k]?) → spanBytes s = D) ∧
    (65536 < s.csumBase.toNat + s.csumLen.toNat →
      exec (.csum g) s = .next { s with done := true, err := .invalidInput })

/-- Every operand is a register, a parameter or data-buffer bytes: the span is the bytes [B, B+N), the payload the bytes [0, L); an
unwritten byte reads a free value; with N = 0 or L = 0 nothing is read (30_encoding.md R73, 10_state.md R35, 20_memory.md R67; that it
is the free byte of number draws + k is the model's choice, log 3). -/
def Obligations.OperandsAreRegistersAndDataBytes : Prop :=
  ∀ s : State,
    operands s
      = { src := s.srcAddr, dst := s.dstAddr, sport := s.srcPort, dport := s.dstPort, seq := s.seq, ack := s.ack,
          flags := s.flags, id := Config.ipId, win := Config.tcpWindow, pay := payloadBytes s } ∧
    (spanBytes s).length = s.csumLen.toNat ∧ (payloadBytes s).length = s.payloadLen.toNat ∧
    (∀ k, k < s.csumLen.toNat →
      (∀ b, Memory.get? s.data (s.csumBase.toNat + k) = some b → (spanBytes s)[k]? = some b) ∧
      (Memory.get? s.data (s.csumBase.toNat + k) = none →
        (spanBytes s)[k]? = some (Config.freeByte (s.draws + k)))) ∧
    (∀ k, k < s.payloadLen.toNat →
      (∀ b, Memory.get? s.data k = some b → (payloadBytes s)[k]? = some b) ∧
      (Memory.get? s.data k = none → (payloadBytes s)[k]? = some (Config.freeByte (s.draws + k)))) ∧
    (s.csumLen = 0 → spanBytes s = []) ∧ (s.payloadLen = 0 → payloadBytes s = [])

/-- BUILD: the frame of the operands into the frame buffer from index 0, both checksums and FRAME_LEN written, nothing else changed but
STATUS and the model's counter `draws`; INVALID_INPUT when L > 65495, "before any header is built" (42_segment_transmit.md R143, R145).
The engine slot and `draws`, which grows by L, are the model's (log 1, log 3). -/
def Obligations.BuildWritesTheFrame : Prop :=
  ∀ (g : BitVec 29) (s : State) (sink : Option (BitVec 2)), s.phase = .idle → s.slot = .go sink →
    (s.payloadLen.toNat ≤ 65495 →
      exec (.build g) s
        = .next { s with
            frame := Memory.setBytes s.frame 0 (frameOf (operands s)),
            ipCsum := ipChecksum (operands s), tcpCsum := tcpChecksum (operands s),
            frameLen := BitVec.ofNat 16 (40 + s.payloadLen.toNat), done := true, err := .ok,
            draws := s.draws + s.payloadLen.toNat }) ∧
    (65495 < s.payloadLen.toNat →
      exec (.build g) s = .next { s with done := true, err := .invalidInput })

/-- SEND: as BUILD, then one record (DST_ADDR, DST_PORT, frame, response) appended to TxLog and ERR from the response; while the sink is
silent the engine stays BUSY; INVALID_INPUT when L > 65495, whatever the sink does (42_segment_transmit.md R144). The engine slot, the
counter of free values and the sink's answer as an input are the model's (log 1, log 3, log 6). -/
def Obligations.SendTransmitsTheFrameOnce : Prop :=
  ∀ (g : BitVec 29) (s : State), s.phase = .idle →
    (∀ code, s.payloadLen.toNat ≤ 65495 → s.slot = .go (some code) →
      exec (.send g) s
        = .next { s with
            frame := Memory.setBytes s.frame 0 (frameOf (operands s)),
            ipCsum := ipChecksum (operands s), tcpCsum := tcpChecksum (operands s),
            frameLen := BitVec.ofNat 16 (40 + s.payloadLen.toNat), done := true,
            err := (responseOf code).errCode,
            txLog := s.txLog ++ [⟨s.dstAddr, s.dstPort, frameOf (operands s), responseOf code⟩],
            draws := s.draws + s.payloadLen.toNat }) ∧
    (s.payloadLen.toNat ≤ 65495 → s.slot = .go none →
      exec (.send g) s = .next { s with phase := .busy .send, done := false, err := .ok }) ∧
    ∀ sink, 65495 < s.payloadLen.toNat → s.slot = .go sink →
      exec (.send g) s = .next { s with done := true, err := .invalidInput }

/-- The response codes and the error codes: `tx_resp` 0 is ACCEPTED and ERR 0, 1 UNAVAILABLE and ERR 2, 2 and 3 REJECTED and ERR 3
(30_encoding.md R92, 42_segment_transmit.md R151, 60_exceptions.md R160). -/
def Obligations.SinkResponseGivesTheErrorCode : Prop :=
  (responseOf 0 = .accepted ∧ responseOf 1 = .unavailable ∧ responseOf 2 = .rejected ∧ responseOf 3 = .rejected) ∧
  (SinkResponse.accepted.errCode.code = 0 ∧ SinkResponse.unavailable.errCode.code = 2 ∧
    SinkResponse.rejected.errCode.code = 3) ∧
  ErrCode.ok.code = 0 ∧ ErrCode.invalidInput.code = 1 ∧ ErrCode.sinkUnavailable.code = 2 ∧
  ErrCode.txRejected.code = 3 ∧ ErrCode.illegalCmd.code = 4

/-- SEND and BUILD are "identical up to the transmission": answered by the sink, a SEND leaves what a BUILD leaves but for TxLog and ERR
(92_eei_decisions.md D20, 42_segment_transmit.md R144). -/
def Obligations.SendIsBuildPlusTheSink : Prop :=
  ∀ (g g' : BitVec 29) (s t u : State) (code : BitVec 2), s.phase = .idle → s.slot = .go (some code) →
    exec (.build g) s = .next t → exec (.send g') s = .next u →
    u = { t with txLog := u.txLog, err := u.err }

/-- A start whose engine step comes in a later turn leaves the same state as a start whose engine step comes in the same turn
(10_state.md R31, R39, 20_memory.md R61, R65). -/
def Obligations.DelayedEngineStepGivesTheSameState : Prop :=
  ∀ (v : Word) (sink : Option (BitVec 2)) (rest : List Turn) (s : State), s.phase = .idle →
    runSteps 2 { s with schedule := ctrlTurn v .hold :: quietTurn (.go sink) :: rest }
      = step { s with schedule := ctrlTurn v (.go sink) :: rest }

/-- IGN "does not stop or change the running command and is not cleared by a start" (60_exceptions.md R165). -/
def Obligations.IgnDoesNotDisturbTheCommand : Prop :=
  (∀ s t : State, engineTurn s = .next t →
    engineTurn { s with ign := true } = .next { t with ign := true } ∧ t.ign = s.ign) ∧
  ∀ (i : Instr) (s t : State), s.phase = .idle → exec i s = .next t → t.ign = s.ign

/-! ### Errors -/

/-- Taking an error writes STATUS alone (BUSY to 0, DONE to 1, ERR to the code): nothing is saved and no mode changes; an
acknowledgement clears DONE and ERR alone (60_exceptions.md R169, R170). -/
def Obligations.TakingAnErrorWritesOnlyStatus : Prop :=
  ∀ (code : ErrCode) (s : State),
    raiseError code s = { s with phase := .idle, done := true, err := code } ∧
    acknowledge s = { s with done := false, err := .ok }

/-- "the invariant cannot be violated on the BUILD and SEND path" (60_exceptions.md R167): both checksum fields are zero when summed, so
every command answers a next state, whatever the state. -/
def Obligations.EveryCommandAnswersANextState : Prop :=
  (∀ x : Operands, checksumFieldsZero x = true) ∧ ∀ (i : Instr) (s : State), ∃ t, exec i s = .next t

/-! ### The Checksum Engine -/

/-- The closed form of csum, with its two consequences: word order does not matter, and a word 0xFFFF added to a nonzero sum changes
nothing (40_checksum.md R104). -/
def Obligations.ChecksumHasAClosedForm : Prop :=
  (∀ D : List Byte,
    foldedSum D = (if wordSum D = 0 then 0 else 1 + (wordSum D - 1) % 0xFFFF) ∧
    (csum D).toNat = 0xFFFF - foldedSum D) ∧
  (∀ ws ws' : List (Byte × Byte), ws.Perm ws' →
    csum (ws.flatMap fun w => [w.1, w.2]) = csum (ws'.flatMap fun w => [w.1, w.2])) ∧
  ∀ D : List Byte, 0 < wordSum D → csum ([0xFF, 0xFF] ++ D) = csum D

/-- The fold runs until the accumulator is below 2^16. For every accumulator below 2^32 one fold leaves at most 0x1FFFE and two folds give
the same as the loop, however often it may run; so a two-fold engine computes the loop's result for every span the block sums
(40_checksum.md R102). -/
def Obligations.TwoFoldsAreEnough : Prop :=
  (∀ D : List Byte, foldedSum D < 2 ^ 16) ∧
  (∀ S : Nat, S < 2 ^ 32 →
    S / 65536 + S % 65536 ≤ 0x1FFFE ∧ foldCarry 2 S < 2 ^ 16 ∧
    ∀ fuel, 2 ≤ fuel → foldCarry fuel S = foldCarry 2 S) ∧
  ∀ D : List Byte, D.length ≤ 65536 → foldedSum D = foldCarry 2 (wordSum D)

/-- "The accumulator never overflows 32 bits": at most 0x7FFF8000 for every span the block sums (40_checksum.md R103). -/
def Obligations.AccumulatorNeverOverflows : Prop :=
  (∀ D : List Byte, D.length ≤ 65536 → wordSum D ≤ 0x7FFF8000) ∧
  (∀ x : Operands, x.Legal → (checksumInput x).length ≤ 65527 ∧ wordSum (checksumInput x) < 2 ^ 31)

/-- An all-zero span of any length, even, odd or 0, sums to 0 and has the checksum 0xFFFF (40_checksum.md R105). -/
def Obligations.ZeroSpansGiveAllOnes : Prop :=
  csum [] = 0xFFFF ∧ ∀ n : Nat, wordSum (List.replicate n 0) = 0 ∧ csum (List.replicate n 0) = 0xFFFF

/-- The odd trailing byte is the high-order byte of a word whose low byte is 0: csum([0xFF]) sums 0xFF00 (40_checksum.md R101). -/
def Obligations.OddTrailingByteIsHighOrder : Prop :=
  (∀ (D : List Byte) (b : Byte), D.length % 2 = 0 →
    csum (D ++ [b]) = csum (D ++ [b, 0]) ∧ wordSum (D ++ [b]) = wordSum D + b.toNat * 256) ∧
  wordSum [0xFF] = 0xFF00 ∧ csum [0xFF] = 0x00FF

/-- The result is any 16-bit value, and 0x0000 is kept, never replaced by 0xFFFF, in the IP header, the TCP header and CSUM_RESULT
(40_checksum.md R106). -/
def Obligations.ZeroChecksumIsKept : Prop :=
  (∀ v : Half, ∃ D : List Byte, csum D = v) ∧
  (∀ D : List Byte, csum D = 0 ↔ foldedSum D = 0xFFFF) ∧ csum [0xFF, 0xFF] = 0 ∧
  (∀ s : State, spanTooLong s = false → ∃ t, runCsum s = .next t ∧ t.csumResult = csum (spanBytes s)) ∧
  ∀ x : Operands,
    (csum (ipHdrZero x) = 0 → (ipHdrFinal x)[10]? = some 0 ∧ (ipHdrFinal x)[11]? = some 0) ∧
    (csum (checksumInput x) = 0 → (tcpHdrFinal x)[16]? = some 0 ∧ (tcpHdrFinal x)[17]? = some 0)

/-- The verification law: with the checksum put into a zero field at an even offset the span sums to 0x0000, whatever its length; at an
odd offset it can fail; the IP checksum field is at offset 10 of its span and the TCP checksum field at offset 28
(40_checksum.md R108). -/
def Obligations.VerificationLaw : Prop :=
  (∀ D E : List Byte, D.length % 2 = 0 → csum (D ++ be16 (csum (D ++ [0x00, 0x00] ++ E)) ++ E) = 0) ∧
  (csum [0x01, 0x00, 0x00] = 0xFEFF ∧ csum ([0x01] ++ be16 0xFEFF) = 0xFF00) ∧
  ∀ x : Operands,
    (∃ D E : List Byte, D.length = 10 ∧ ∀ c, ipHdr x.len x.src x.dst x.id c = D ++ be16 c ++ E) ∧
    ∃ D E : List Byte, D.length = 28 ∧
      ∀ c, pseudoHdr (ipHdrZero x) x.len ++ tcpHdr x.sport x.dport x.seq x.ack x.flags x.win c ++ x.pay
        = D ++ be16 c ++ E

/-- The 16-bit end-around adder gives the value of the loop form for every span, and its accumulator stays in 16 bits
(40_checksum.md R110). -/
def Obligations.AdderFormEqualsLoopForm : Prop :=
  ∀ D : List Byte, adderCsum D = csum D ∧ adderRun 0 D = foldedSum D ∧ adderRun 0 D ≤ 0xFFFF

/-! ### The encoders -/

/-- The bytes of the IP header, in wire order (30_encoding.md R80, 41_header_encoders.md R122). -/
def Obligations.IpHeaderBytes : Prop :=
  ∀ (L : Nat) (src dst : Word) (id c : Half),
    ipHdr L src dst id c
      = [0x45, 0x00, (BitVec.ofNat 16 (40 + L)).extractLsb' 8 8, (BitVec.ofNat 16 (40 + L)).extractLsb' 0 8,
         id.extractLsb' 8 8, id.extractLsb' 0 8, 0x00, 0x00, 0x40, 0x06, c.extractLsb' 8 8, c.extractLsb' 0 8,
         src.extractLsb' 24 8, src.extractLsb' 16 8, src.extractLsb' 8 8, src.extractLsb' 0 8,
         dst.extractLsb' 24 8, dst.extractLsb' 16 8, dst.extractLsb' 8 8, dst.extractLsb' 0 8]

/-- The bytes of the TCP header, in wire order (30_encoding.md R85, 41_header_encoders.md R125). -/
def Obligations.TcpHeaderBytes : Prop :=
  ∀ (sport dport : Half) (seq ack : Word) (flags : BitVec 6) (win c : Half),
    tcpHdr sport dport seq ack flags win c
      = [sport.extractLsb' 8 8, sport.extractLsb' 0 8, dport.extractLsb' 8 8, dport.extractLsb' 0 8,
         seq.extractLsb' 24 8, seq.extractLsb' 16 8, seq.extractLsb' 8 8, seq.extractLsb' 0 8,
         ack.extractLsb' 24 8, ack.extractLsb' 16 8, ack.extractLsb' 8 8, ack.extractLsb' 0 8,
         0x50, flags.setWidth 8, win.extractLsb' 8 8, win.extractLsb' 0 8,
         c.extractLsb' 8 8, c.extractLsb' 0 8, 0x00, 0x00]

/-- The bytes of the pseudo-header: the addresses and the protocol are those of the IP header, its checksum field zero or final, and the
length is 20 + L (41_header_encoders.md R127, R128); so the identification does not enter the TCP checksum (R129). -/
def Obligations.PseudoHeaderMirrorsTheIpHeader : Prop :=
  ∀ x : Operands,
    pseudoHdr (ipHdrZero x) x.len
      = be32 x.src ++ be32 x.dst ++ [0x00, 0x06] ++ be16 (BitVec.ofNat 16 (20 + x.len)) ∧
    pseudoHdr (ipHdrFinal x) x.len = pseudoHdr (ipHdrZero x) x.len ∧
    ∀ id : Half, tcpChecksum { x with id := id } = tcpChecksum x

/-- The flag byte of the frame recovers exactly the six flags, its two top bits 0 (41_header_encoders.md R126). -/
def Obligations.FlagByteRecoversTheFlags : Prop :=
  ∀ x : Operands, ∃ b : Byte, (frameOf x)[33]? = some b ∧ b.toNat = x.flags.toNat ∧
    (∀ i, i < 6 → b.getLsbD i = x.flags.getLsbD i) ∧ b.getLsbD 6 = false ∧ b.getLsbD 7 = false

/-- "the IP total length 40 + L is in 40 to 65535 and the TCP segment length 20 + L is in 20 to 65515; both fit 16 bits and neither
wraps" (41_header_encoders.md R121). -/
def Obligations.LengthFieldsNeverWrap : Prop :=
  ∀ x : Operands, x.Legal →
    (ipTotalLength x.len).toNat = 40 + x.len ∧ 40 + x.len ≤ 65535 ∧
    (tcpSegmentLength x.len).toNat = 20 + x.len ∧ 20 + x.len ≤ 65515

/-- The frame is ip_hdr_final ++ tcp_hdr_final ++ pay, 40 + L bytes, and its total length field says so (42_segment_transmit.md R140). -/
def Obligations.FrameLengthIsItsTotalLengthField : Prop :=
  ∀ x : Operands, x.Legal →
    (frameOf x).length = 40 + x.len ∧ (frameOf x).take 20 = ipHdrFinal x ∧
    ((frameOf x).drop 20).take 20 = tcpHdrFinal x ∧ (frameOf x).drop 40 = x.pay ∧
    ∃ hi lo : Byte, (frameOf x)[2]? = some hi ∧ (frameOf x)[3]? = some lo ∧
      hi.toNat * 256 + lo.toNat = (frameOf x).length

/-- Decoding the first 20 bytes of a frame recovers every IP header field as supplied (30_encoding.md R80, 95_test_vectors.md property 3). -/
def Obligations.IpHeaderDecodesBack : Prop :=
  ∀ x : Operands, x.Legal → ∀ h, h = (frameOf x).take 20 →
    h.getD 0 0 = 0x45 ∧ h.getD 1 0 = 0 ∧ (h.getD 2 0).toNat * 256 + (h.getD 3 0).toNat = 40 + x.len ∧
    (h.getD 4 0).toNat * 256 + (h.getD 5 0).toNat = x.id.toNat ∧ h.getD 6 0 = 0 ∧ h.getD 7 0 = 0 ∧
    h.getD 8 0 = 64 ∧ h.getD 9 0 = 6 ∧
    (h.getD 10 0).toNat * 256 + (h.getD 11 0).toNat = (ipChecksum x).toNat ∧
    wordOf (h.getD 12 0) (h.getD 13 0) (h.getD 14 0) (h.getD 15 0) = x.src ∧
    wordOf (h.getD 16 0) (h.getD 17 0) (h.getD 18 0) (h.getD 19 0) = x.dst

/-- Decoding bytes 20 to 39 of a frame recovers every TCP header field as supplied (30_encoding.md R85). -/
def Obligations.TcpHeaderDecodesBack : Prop :=
  ∀ x : Operands, ∀ h, h = ((frameOf x).drop 20).take 20 →
    (h.getD 0 0).toNat * 256 + (h.getD 1 0).toNat = x.sport.toNat ∧
    (h.getD 2 0).toNat * 256 + (h.getD 3 0).toNat = x.dport.toNat ∧
    wordOf (h.getD 4 0) (h.getD 5 0) (h.getD 6 0) (h.getD 7 0) = x.seq ∧
    wordOf (h.getD 8 0) (h.getD 9 0) (h.getD 10 0) (h.getD 11 0) = x.ack ∧
    h.getD 12 0 = 0x50 ∧ h.getD 13 0 = x.flags.setWidth 8 ∧
    (h.getD 14 0).toNat * 256 + (h.getD 15 0).toNat = x.win.toNat ∧
    (h.getD 16 0).toNat * 256 + (h.getD 17 0).toNat = (tcpChecksum x).toNat ∧
    h.getD 18 0 = 0 ∧ h.getD 19 0 = 0

/-- Both checksums of every frame verify: the IP header sums to 0x0000, and so does the pseudo-header with the TCP header and the payload
(41_header_encoders.md R123, R129, 40_checksum.md R108). For payload bytes never written it rests on the frame holding the bytes that
were summed, the model's inference (log 16, unsafe). -/
def Obligations.BothChecksumsOfAFrameVerify : Prop :=
  ∀ x : Operands,
    csum ((frameOf x).take 20) = 0 ∧
    csum (pseudoHdr ((frameOf x).take 20) x.len ++ (frameOf x).drop 20) = 0

/-- Empty payload: the frame is the 40 header bytes, the IP total length 0x0028, the pseudo-header length 0x0014, and no data byte is
read (42_segment_transmit.md R142). -/
def Obligations.EmptyPayloadFrame : Prop :=
  (∀ x : Operands, x.pay = [] →
    frameOf x = ipHdrFinal x ++ tcpHdrFinal x ∧ (frameOf x).length = 40 ∧
    (frameOf x)[2]? = some 0x00 ∧ (frameOf x)[3]? = some 0x28 ∧
    (pseudoHdr (ipHdrZero x) x.len)[10]? = some 0x00 ∧ (pseudoHdr (ipHdrZero x) x.len)[11]? = some 0x14) ∧
  ∀ (s : State) (m : Memory) (d : Nat), s.payloadLen = 0 → operands { s with data := m, draws := d } = operands s

/-- "every byte a BUILD or SEND emits is a function of the input registers, P_IP_ID, P_TCP_WINDOW and data-buffer bytes 0 to L−1 at the
command's start" (10_state.md R42). -/
def Obligations.FrameDependsOnlyOnItsInputs : Prop :=
  ∀ s s' : State,
    s.srcAddr = s'.srcAddr → s.dstAddr = s'.dstAddr → s.srcPort = s'.srcPort → s.dstPort = s'.dstPort →
    s.seq = s'.seq → s.ack = s'.ack → s.flags = s'.flags → s.payloadLen = s'.payloadLen →
    (∀ j, j < s.payloadLen.toNat → ∃ b, Memory.get? s.data j = some b ∧ Memory.get? s'.data j = some b) →
    frameOf (operands s) = frameOf (operands s')

/-- After the results are written the frame buffer holds the frame at indices 0 to 40+L-1, every byte above is as before, and the three
registers hold the checksums and the length (42_segment_transmit.md R145). -/
def Obligations.FrameBufferHoldsTheFrame : Prop :=
  ∀ (x : Operands) (s : State), x.Legal →
    (∀ j, j < 40 + x.len → Memory.get? (writeResults x s).frame j = (frameOf x)[j]?) ∧
    (∀ j, 40 + x.len ≤ j → Memory.get? (writeResults x s).frame j = Memory.get? s.frame j) ∧
    (writeResults x s).ipCsum = csum (ipHdrZero x) ∧ (writeResults x s).tcpCsum = csum (checksumInput x) ∧
    (writeResults x s).frameLen.toNat = 40 + x.len

/-- The sink receives exactly the bytes the frame buffer holds below FRAME_LEN after the command, with DST_ADDR and DST_PORT
(42_segment_transmit.md R152, R150; the engine slot and the answer in it are the model's, log 1, log 6). -/
def Obligations.SinkReceivesTheFrameBuffer : Prop :=
  ∀ (s : State) (code : BitVec 2), s.phase = .busy .send → s.slot = .go (some code) → s.payloadLen.toNat ≤ 65495 →
    ∃ (t : State) (r : TxRecord), engineTurn s = .next t ∧ t.txLog = s.txLog ++ [r] ∧
      r.dstAddr = s.dstAddr ∧ r.dstPort = s.dstPort ∧ r.response = responseOf code ∧
      r.frame.length = t.frameLen.toNat ∧ ∀ j, j < t.frameLen.toNat → Memory.get? t.frame j = r.frame[j]?

/-! ### The host side -/

/-- The address map and the register offsets (20_memory.md R50, R51, 10_state.md R22), and the 18-bit block offset of a platform address;
that the base is a natural number, so that platform addresses do not wrap around, is the model's choice (log 5). -/
def Obligations.AddressMapIsAsLaidOut : Prop :=
  (∀ r : Reg, regionOf r.offset = .reg r) ∧
  (∀ a : Nat,
    (a < 0x40 → ∃ r, regionOf a = .reg r) ∧
    (0x40 ≤ a → a < 0x10000 → regionOf a = .unmapped) ∧
    (0x10000 ≤ a → a < 0x20000 → regionOf a = .data (a - 0x10000)) ∧
    (0x20000 ≤ a → a < 0x30000 → regionOf a = .frame (a - 0x20000)) ∧
    (0x30000 ≤ a → regionOf a = .unmapped)) ∧
  ∀ base a : Nat,
    (∀ o : BitVec 18, blockOffset base (base + o.toNat) = some o) ∧
    (a < base ∨ base + 2 ^ 18 ≤ a → blockOffset base a = none)

/-- "A host transaction at an unmapped offset, of a size other than 4 bytes, or at an offset not a multiple of 4, gets a bus error"
(60_exceptions.md R166); every other transaction answers a next state. The three names are the model's (log 8). -/
def Obligations.BusErrorsAreExactlyTheBadTransactions : Prop :=
  ∀ (b : BusTxn) (s : State),
    ((b.size ≠ 2 ∨ b.addr.toNat % 4 ≠ 0 ∨ (0x40 ≤ b.addr.toNat ∧ b.addr.toNat < 0x10000) ∨
        0x30000 ≤ b.addr.toNat) →
      busTurn b s = .fault .busSize ∨ busTurn b s = .fault .busMisaligned ∨ busTurn b s = .fault .busUnmapped) ∧
    (b.size = 2 → b.addr.toNat % 4 = 0 → (b.addr.toNat < 0x40 ∨ 0x10000 ≤ b.addr.toNat) →
      b.addr.toNat < 0x30000 → ∃ t, busTurn b s = .next t)

/-- Writing an input register in IDLE: the register reads back the value masked to the bits it uses, every other place of the address
map reads as before, and nothing else of the state changes (10_state.md R22, R26 to R30, R32). -/
def Obligations.InputRegisterReadsBackMasked : Prop :=
  ∀ (r : InputReg) (v : Word) (s : State), s.phase = .idle →
    ∃ t, hostWrite (Reg.input r).offset v s = .next t ∧
      readValue (Reg.input r).offset t = v &&& inputMask r ∧
      (∀ a, regionOf a ≠ .reg (.input r) → readValue a t = readValue a s) ∧
      t.data = s.data ∧ t.frame = s.frame ∧ t.txLog = s.txLog ∧ t.phase = s.phase ∧ t.draws = s.draws ∧
      t.schedule = s.schedule

/-- Buffer words are big-endian on the bus: a data-window write places its bytes most significant first and touches no other byte, and a
word of either window reads its bytes in wire order (20_memory.md R54). -/
def Obligations.BufferWordsAreBigEndian : Prop :=
  (∀ (a i : Nat) (v : Word) (s : State), regionOf a = .data i → s.phase = .idle →
    ∃ m, hostWrite a v s = .next { s with data := m } ∧ readValue a { s with data := m } = v ∧
      Memory.get? m i = some (v.extractLsb' 24 8) ∧ Memory.get? m (i + 1) = some (v.extractLsb' 16 8) ∧
      Memory.get? m (i + 2) = some (v.extractLsb' 8 8) ∧ Memory.get? m (i + 3) = some (v.extractLsb' 0 8) ∧
      ∀ j, j < i ∨ i + 4 ≤ j → Memory.get? m j = Memory.get? s.data j) ∧
  (∀ (a i : Nat) (b0 b1 b2 b3 : Byte) (s : State),
    (regionOf a = .data i ∧ Memory.get? s.data i = some b0 ∧ Memory.get? s.data (i + 1) = some b1 ∧
        Memory.get? s.data (i + 2) = some b2 ∧ Memory.get? s.data (i + 3) = some b3) ∨
      (regionOf a = .frame i ∧ s.phase = .idle ∧ i + 3 < s.frameLen.toNat ∧ Memory.get? s.frame i = some b0 ∧
        Memory.get? s.frame (i + 1) = some b1 ∧ Memory.get? s.frame (i + 2) = some b2 ∧
        Memory.get? s.frame (i + 3) = some b3) →
    (readValue a s).toNat
      = b0.toNat * 2 ^ 24 + b1.toNat * 2 ^ 16 + b2.toNat * 2 ^ 8 + b3.toNat)

/-- A host read changes nothing of the block: only the read data on the bus and the model's counter of free values, then the engine has
its part of the turn (20_memory.md R55, R59). -/
def Obligations.ReadsHaveNoSideEffect : Prop :=
  ∀ (o : BitVec 18) (s : State), o.toNat % 4 = 0 → regionOf o.toNat ≠ .unmapped →
    ∀ v : Word,
      busTurn { wr := false, addr := o, size := 2, wdata := v } s
        = engineTurn { s with rdata := readValue o.toNat s, draws := s.draws + 4 }

/-- What reads return in IDLE: CTRL 0, STATUS its word, a register its stored value with unused bits 0. Byte k of a data word is the
stored byte, or a free byte where none is stored; byte k of a frame word is the stored byte below FRAME_LEN, and a free byte at or above
FRAME_LEN, whatever is stored there (20_memory.md R54, R55, 10_state.md R22, R23, R33, R35, R36; the free byte's number, and that a frame
byte below FRAME_LEN that is not stored would read a free byte too, are the model's, log 3 and log 4). -/
def Obligations.ReadsInIdle : Prop :=
  ∀ s : State, s.phase = .idle →
    readValue Reg.ctrl.offset s = 0 ∧ readValue Reg.status.offset s = statusWord s ∧
    (∀ r, readValue (Reg.input r).offset s = readInput s r) ∧
    (readValue (Reg.result .csumResult).offset s).toNat = s.csumResult.toNat ∧
    (readValue (Reg.result .ipCsum).offset s).toNat = s.ipCsum.toNat ∧
    (readValue (Reg.result .tcpCsum).offset s).toNat = s.tcpCsum.toNat ∧
    (readValue (Reg.result .frameLen).offset s).toNat = s.frameLen.toNat ∧
    (∀ j d, s.frameLen.toNat ≤ j → frameWindowByte s d j = Config.freeByte d) ∧
    ∀ a i k, k < 4 →
      (regionOf a = .data i →
        (∀ b, Memory.get? s.data (i + k) = some b → (readValue a s).extractLsb' (24 - 8 * k) 8 = b) ∧
        (Memory.get? s.data (i + k) = none →
          (readValue a s).extractLsb' (24 - 8 * k) 8 = Config.freeByte (s.draws + k))) ∧
      (regionOf a = .frame i →
        (∀ b, i + k < s.frameLen.toNat → Memory.get? s.frame (i + k) = some b →
          (readValue a s).extractLsb' (24 - 8 * k) 8 = b) ∧
        (i + k < s.frameLen.toNat → Memory.get? s.frame (i + k) = none →
          (readValue a s).extractLsb' (24 - 8 * k) 8 = Config.freeByte (s.draws + k)) ∧
        (s.frameLen.toNat ≤ i + k →
          (readValue a s).extractLsb' (24 - 8 * k) 8 = Config.freeByte (s.draws + k)))

/-- While BUSY a read of a result register or of the frame window returns an unspecified value (a free word), STATUS reads BUSY = 1, CTRL
reads 0, input registers and the data window read their stored values (10_state.md R40). -/
def Obligations.ReadsWhileBusy : Prop :=
  ∀ (s : State) (c : Command), s.phase = .busy c →
    (∀ r, readValue (Reg.result r).offset s = Config.freeWord s.draws) ∧
    (∀ a i, regionOf a = .frame i → readValue a s = Config.freeWord s.draws) ∧
    (readValue Reg.status.offset s).getLsbD 0 = true ∧ readValue Reg.ctrl.offset s = 0 ∧
    (∀ r, readValue (Reg.input r).offset s = readInput s r) ∧
    ∀ a i, regionOf a = .data i → readValue a s = readValue a { s with phase := .idle }

/-- The fields of STATUS: BUSY, DONE, IGN, a zero bit, ERR with a value of 0 to 4, and zeros (10_state.md R24). -/
def Obligations.StatusWordFields : Prop :=
  ∀ s : State,
    (statusWord s).getLsbD 0 = s.busy ∧ (statusWord s).getLsbD 1 = s.done ∧ (statusWord s).getLsbD 2 = s.ign ∧
    (statusWord s).getLsbD 3 = false ∧ (statusWord s).extractLsb' 4 4 = s.err.code ∧
    (statusWord s).extractLsb' 8 24 = 0 ∧ s.err.code.toNat ≤ 4

/-- A STATUS write, in either phase: bit 1 clears DONE and ERR, bit 2 clears IGN, the other bits are ignored; it is never dropped
(10_state.md R25). -/
def Obligations.StatusWriteClearsItsBits : Prop :=
  ∀ (v : Word) (s : State),
    hostWrite Reg.status.offset v s
      = engineTurn { s with
          done := if v.getLsbD 1 then false else s.done,
          err := if v.getLsbD 1 then .ok else s.err,
          ign := if v.getLsbD 2 then false else s.ign }

/-- A host write to a read-only register or into the frame window: "no state changes, no bus error, and STATUS.IGN is not set", in either
phase (10_state.md R34). -/
def Obligations.ReadOnlyWritesAreIgnored : Prop :=
  ∀ (o : BitVec 18) (v : Word) (s : State), o.toNat % 4 = 0 →
    ((∃ r, regionOf o.toNat = .reg (.result r)) ∨ ∃ i, regionOf o.toNat = .frame i) →
    busTurn { wr := true, addr := o, size := 2, wdata := v } s = engineTurn s

/-- While BUSY a write to CTRL, an input register or the data window is dropped and sets IGN, a STATUS write is performed, a read-only
target is ignored; so "every input a command reads has the value it had when the command started" (10_state.md R39). -/
def Obligations.BusyWritesAreDropped : Prop :=
  (∀ (s : State) (c : Command) (a : Nat) (v : Word), s.phase = .busy c →
    ((regionOf a = .reg .ctrl ∨ (∃ r, regionOf a = .reg (.input r)) ∨ ∃ i, regionOf a = .data i) →
      hostWrite a v s = engineTurn { s with ign := true }) ∧
    (regionOf a = .reg .status → hostWrite a v s = engineTurn (writeStatus v s)) ∧
    (((∃ r, regionOf a = .reg (.result r)) ∨ ∃ i, regionOf a = .frame i) → hostWrite a v s = engineTurn s)) ∧
  ∀ (s t : State) (c : Command), s.phase = .busy c → (nextTurn s).isReset = false → step s = .next t →
    t.srcAddr = s.srcAddr ∧ t.dstAddr = s.dstAddr ∧ t.srcPort = s.srcPort ∧ t.dstPort = s.dstPort ∧
    t.seq = s.seq ∧ t.ack = s.ack ∧ t.flags = s.flags ∧ t.payloadLen = s.payloadLen ∧
    t.csumBase = s.csumBase ∧ t.csumLen = s.csumLen ∧ t.data = s.data

/-- The host script lines and their expansions, each target at its offset; WAIT reads STATUS and goes on while the value read has BUSY = 1, and the value read last
is its result. "A `WAIT` therefore ends for CSUM and BUILD, and for SEND under that premise", that the sink answers in one of its reads
(30_encoding.md R77, R78, 70_reset_and_hazards.md R196; how it stands in the schedule, the engine slots of its reads, and that no reset comes
between two of them, are the model's, log 13). -/
def Obligations.ScriptLinesExpand : Prop :=
  ((Line.start .csum).expand = [memWrite 0x00 1] ∧ (Line.start .build).expand = [memWrite 0x00 2] ∧
    (Line.start .send).expand = [memWrite 0x00 3] ∧ Line.clear.expand = [memWrite 0x04 0x00000006] ∧
    Line.wait.expand = [.wait []] ∧ (∀ t v, (Line.write t v).expand = [memWrite t.offset v]) ∧
    (∀ t, (Line.read t).expand = [memRead t.offset]) ∧
    ∀ r v, (Line.set r v).expand = (Line.write (.reg r) v).expand) ∧
  ((Target.reg .ctrl).offset = 0x00 ∧ (Target.reg .status).offset = 0x04 ∧
    (Target.reg (.input .srcAddr)).offset = 0x08 ∧ (Target.reg (.input .dstAddr)).offset = 0x0C ∧
    (Target.reg (.input .srcPort)).offset = 0x10 ∧ (Target.reg (.input .dstPort)).offset = 0x14 ∧
    (Target.reg (.input .seq)).offset = 0x18 ∧ (Target.reg (.input .ack)).offset = 0x1C ∧
    (Target.reg (.input .flags)).offset = 0x20 ∧ (Target.reg (.input .payloadLen)).offset = 0x24 ∧
    (Target.reg (.input .csumBase)).offset = 0x28 ∧ (Target.reg (.input .csumLen)).offset = 0x2C ∧
    (Target.reg (.result .csumResult)).offset = 0x30 ∧ (Target.reg (.result .ipCsum)).offset = 0x34 ∧
    (Target.reg (.result .tcpCsum)).offset = 0x38 ∧ (Target.reg (.result .frameLen)).offset = 0x3C) ∧
  (∀ i, i < 0x10000 →
    (Target.data i).offset.toNat = 0x10000 + i ∧ (Target.frame i).offset.toNat = 0x20000 + i) ∧
  (∀ o, (Target.literal o).offset = o) ∧
  (∀ o v, memWrite o v = .bus { wr := true, addr := o, size := 2, wdata := v }) ∧
  (∀ o, ∃ v, memRead o = .bus { wr := false, addr := o, size := 2, wdata := v }) ∧
  ∀ (s : State) (slot : EngineSlot) (later : List EngineSlot) (rest : List Turn),
    s.schedule = ⟨.wait later, slot⟩ :: rest →
    (s.phase = .idle →
      step s
        = .next { s with rdata := statusWord s, draws := s.draws + 4, schedule := rest, slot := slot }) ∧
    ∀ c, s.phase = .busy c →
      step s
        = engineTurn { s with
            rdata := statusWord s, draws := s.draws + 4,
            schedule := ⟨.wait later.tail, later.headD (.go none)⟩ :: rest, slot := slot } ∧
      ((c ≠ .send ∨ 65495 < s.payloadLen.toNat ∨ (slot :: later).any EngineSlot.answers = true) →
        ∃ (k : Nat) (t : State), k ≤ later.length + 3 ∧ runSteps k s = .next t ∧ t.schedule = rest ∧
          t.phase = .idle ∧ t.done = true ∧ t.rdata = statusWord t)

/-- LOAD places its bytes in the data buffer from index i on, in order, pads the last word with zero bytes and touches no other byte
(30_encoding.md R78, 20_memory.md R54). -/
def Obligations.LoadPlacesTheBytes : Prop :=
  ∀ (i : Nat) (bytes : List Byte) (s : State), i % 4 = 0 → i + bytes.length ≤ 65536 → s.phase = .idle →
    s.schedule = scheduleOf [.load i bytes] [] →
    ∃ t, runSteps ((bytes.length + 3) / 4) s = .next t ∧
      (∀ k, k < bytes.length → Memory.get? t.data (i + k) = bytes[k]?) ∧
      (∀ k, bytes.length ≤ k → k < (bytes.length + 3) / 4 * 4 → Memory.get? t.data (i + k) = some 0) ∧
      ∀ j, j < i ∨ i + (bytes.length + 3) / 4 * 4 ≤ j → Memory.get? t.data j = Memory.get? s.data j

/-! ### Reset -/

/-- After power-on reset every register reads 0, the phase is IDLE, no buffer byte has a value of its own and TxLog is empty; a later
reset gives the same but erases no record of TxLog (10_state.md R41; the read data on the bus and the model's own fields it keeps, log 11
and log 12). -/
def Obligations.ResetValues : Prop :=
  (∀ r : Reg, readValue r.offset State.reset = 0) ∧ State.reset.phase = .idle ∧
  (∀ j, Memory.get? State.reset.data j = none ∧ Memory.get? State.reset.frame j = none) ∧
  State.reset.txLog = [] ∧
  ∀ (p : Params) (cut : Option (Nat × BitVec 2)) (s : State), ∃ (more : List TxRecord) (n : Nat),
    resetWith p cut s
      = { State.reset with
          txLog := s.txLog ++ more, rdata := s.rdata, draws := n, schedule := s.schedule, slot := s.slot }

/-- Reset from any state: every register, the phase and both buffers as after power-on; TxLog is unchanged, but for a SEND past its length
check, which may leave one record with any part of the frame, from its first byte on, and any response (70_reset_and_hazards.md R180,
R182). The model's own: which of these happens is in the schedule, and a SEND that fails its length check leaves no record, which is
deduced from 42_segment_transmit.md R146 and 60_exceptions.md R161 (log 7); the read data on the bus is kept (log 11) and both buffers
list nothing (log 12). -/
def Obligations.ResetFromAnyState : Prop :=
  ∀ (cut : Option (Nat × BitVec 2)) (slot : EngineSlot) (rest : List Turn) (s : State),
    s.schedule = ⟨.reset cut, slot⟩ :: rest →
    ∃ t, step s = .next t ∧
      t = { State.reset with
              txLog := t.txLog, rdata := s.rdata, draws := t.draws, schedule := rest, slot := slot } ∧
      (∀ k code, s.phase = .busy .send → s.payloadLen.toNat ≤ 65495 → cut = some (k, code) →
        t.txLog
          = s.txLog ++ [⟨s.dstAddr, s.dstPort, (frameOf (operands s)).take k, responseOf code⟩]) ∧
      ((s.phase ≠ .busy .send ∨ 65495 < s.payloadLen.toNat ∨ cut = none) → t.txLog = s.txLog)

/-! ### Whole-machine rules -/

/-- The invariant holds after reset. -/
def Obligations.InvariantHoldsAtReset : Prop := State.reset.Inv

/-- Every step keeps the invariant: both buffers in canonical form, DONE = 0 while BUSY, ERR = 0 while DONE = 0, the frame buffer and the
frame registers those of one legal frame, and every TxLog record a part of a legal frame (10_state.md R31, R33, R36, R38). -/
def Obligations.EveryStepKeepsTheInvariant : Prop :=
  ∀ s t : State, s.Inv → step s = .next t → t.Inv

/-- "A SEND that passes its length check performs SinkSend exactly once; a SEND that fails it performs none. No command retries": a step
appends at most one record to TxLog, only for a SEND past its length check, and never removes one (42_segment_transmit.md R146,
60_exceptions.md R161). In a reset turn the record is that of the SEND it abandons (70_reset_and_hazards.md R182); that an abandoned SEND
which fails its length check leaves none is the model's inference (log 7, DEDUCED, unsafe). -/
def Obligations.TxLogGainsOnlyTheRecordOfASend : Prop :=
  ∀ s t : State, step s = .next t → t.txLog = s.txLog ∨ (s.sending ∧ ∃ r, t.txLog = s.txLog ++ [r])

/-- The frame buffer, IP_CSUM, TCP_CSUM and FRAME_LEN change only by a BUILD or SEND past its length check, in progress or started by the
turn, only together and only to those of the frame of this state's operands, or by a reset (10_state.md R33, R36,
42_segment_transmit.md R145; `n` is the number of the first free value for an unwritten payload byte, the model's, log 3). -/
def Obligations.FrameChangesOnlyByBuildOrSend : Prop :=
  ∀ s t : State, (nextTurn s).isReset = false → step s = .next t →
    (t.frame = s.frame ∧ t.ipCsum = s.ipCsum ∧ t.tcpCsum = s.tcpCsum ∧ t.frameLen = s.frameLen) ∨
    s.assembling ∧ ∃ (n : Nat) (x : Operands), x = operands { s with draws := n } ∧ x.Legal ∧
      t.frame = Memory.setBytes s.frame 0 (frameOf x) ∧ t.ipCsum = ipChecksum x ∧
      t.tcpCsum = tcpChecksum x ∧ t.frameLen.toNat = 40 + s.payloadLen.toNat

/-- The engine step of a started command, when it is enabled, ends BUSY and sets DONE. A SEND past its length check is left as it was by
every step that is no reset and brings no answer of the sink. In every run a CSUM, a BUILD and a SEND that fails its length check end, and
a SEND that passes it ends exactly if its schedule brings an answer or a reset: "a sink that never answers leaves BUSY = 1 for ever, and
only reset ends it". A bus error of the host stops a run (10_state.md R31, 42_segment_transmit.md R144, R150,
70_reset_and_hazards.md R182, R196; the schedule is the model's, log 1, log 2, and so is that no reset comes inside a WAIT, log 13). -/
def Obligations.EnabledEngineStepEndsTheCommand : Prop :=
  (∀ (s : State) (c : Command) (sink : Option (BitVec 2)), s.phase = .busy c → s.slot = .go sink →
    ((c ≠ .send ∨ 65495 < s.payloadLen.toNat ∨ sink ≠ none) →
      ∃ t, engineTurn s = .next t ∧ t.phase = .idle ∧ t.done = true) ∧
    (c = .send → s.payloadLen.toNat ≤ 65495 → sink = none → engineTurn s = .next s)) ∧
  (∀ s : State, s.phase = .busy .send → s.payloadLen.toNat ≤ 65495 → (nextTurn s).isReset = false →
    (nextTurn s).engine.answers = false →
    (∃ b f, (nextTurn s).host = .bus b ∧ busFault b = some f ∧ step s = .fault f) ∨
      ∃ t, step s = .next t ∧ s.StillSending t) ∧
  (∀ (s : State) (c : Command), s.phase = .busy c →
    (c ≠ .send ∨ 65495 < s.payloadLen.toNat ∨ endsSend s.schedule = true) →
    ∃ k, (∃ f, runSteps k s = .fault f) ∨ ∃ t, runSteps k s = .next t ∧ t.phase = .idle) ∧
  ∀ s : State, s.phase = .busy .send → s.payloadLen.toNat ≤ 65495 → endsSend s.schedule = false →
    ∀ k, (∃ f, runSteps k s = .fault f) ∨ ∃ t, runSteps k s = .next t ∧ s.StillSending t
end

