-- ==== Sys2Proof/Laws/Memory.lean ====
section
/-! SUPPORT. Laws of the byte memories: a read after a write, what a write leaves alone, and the canonical form. -/

namespace Sys2Proof.Machine

/-! ### One byte -/

@[simp] theorem get?_set_self (m : Memory) (a : Nat) (b : Byte) :
    Memory.get? (Memory.set m a b) a = some b := by
  induction m with
  | nil => simp [Memory.set, Memory.get?]
  | cons c m ih =>
    obtain ⟨i, d⟩ := c
    simp only [Memory.set]
    split_ifs with h1 h2 <;> simp [Memory.get?, *]

theorem get?_set_ne {m : Memory} {a a' : Nat} {b : Byte} (h : a' ≠ a) :
    Memory.get? (Memory.set m a b) a' = Memory.get? m a' := by
  induction m with
  | nil => simp [Memory.set, Memory.get?, h]
  | cons c m ih =>
    obtain ⟨i, d⟩ := c
    simp only [Memory.set]
    split_ifs with h1 h2
    · simp [Memory.get?, h]
    · subst h2; simp [Memory.get?, h]
    · simp [Memory.get?, ih]

/-- Every cell of a written memory is the written one or an old one. -/
theorem mem_set {m : Memory} {a : Nat} {b : Byte} {c : Host.Cell} (h : c ∈ Memory.set m a b) :
    c = (a, b) ∨ c ∈ m := by
  induction m with
  | nil => simpa [Memory.set] using h
  | cons d m ih =>
    obtain ⟨i, e⟩ := d
    simp only [Memory.set] at h
    split_ifs at h with h1 h2
    · simpa using h
    · rcases List.mem_cons.mp h with h | h
      · exact .inl h
      · exact .inr (List.mem_cons_of_mem _ h)
    · rcases List.mem_cons.mp h with h | h
      · exact .inr (by simp [h])
      · exact (ih h).imp_right (List.mem_cons_of_mem _)

theorem set_sorted {m : Memory} (a : Nat) (b : Byte) (h : m.Pairwise (fun x y => x.1 < y.1)) :
    (Memory.set m a b).Pairwise (fun x y => x.1 < y.1) := by
  induction m with
  | nil => simp [Memory.set]
  | cons d m ih =>
    obtain ⟨i, e⟩ := d
    have ⟨hd, hm⟩ := List.pairwise_cons.mp h
    simp only [Memory.set]
    split_ifs with h1 h2
    · refine List.pairwise_cons.mpr ⟨fun c hc => ?_, h⟩
      rcases List.mem_cons.mp hc with rfl | hc
      · exact h1
      · exact lt_trans h1 (hd c hc)
    · subst h2; exact List.pairwise_cons.mpr ⟨hd, hm⟩
    · refine List.pairwise_cons.mpr ⟨fun c hc => ?_, ih hm⟩
      rcases mem_set hc with rfl | hc
      · show i < a
        omega
      · exact hd c hc

/-- A byte write inside the buffer keeps the canonical form. -/
theorem wf_set {m : Memory} {a : Nat} (b : Byte) (h : Memory.wf m) (ha : a < 65536) :
    Memory.wf (Memory.set m a b) :=
  ⟨set_sorted a b h.1, fun c hc => by
    rcases mem_set hc with rfl | hc
    · exact ha
    · exact h.2 c hc⟩

theorem wf_nil : Memory.wf [] := ⟨List.Pairwise.nil, by simp⟩

/-! ### Consecutive bytes -/

@[simp] theorem setBytes_nil (m : Memory) (a : Nat) : Memory.setBytes m a [] = m := rfl

theorem get?_setBytes_below {bs : List Byte} {m : Memory} {a j : Nat} (h : j < a) :
    Memory.get? (Memory.setBytes m a bs) j = Memory.get? m j := by
  induction bs generalizing m a with
  | nil => rfl
  | cons b bs ih => rw [Memory.setBytes, ih (by omega), get?_set_ne (by omega)]

/-- The bytes written read back. -/
theorem get?_setBytes_inside {bs : List Byte} {m : Memory} {a k : Nat} (h : k < bs.length) :
    Memory.get? (Memory.setBytes m a bs) (a + k) = bs[k]? := by
  induction bs generalizing m a k with
  | nil => simp at h
  | cons b bs ih =>
    rw [Memory.setBytes]
    cases k with
    | zero => simp [get?_setBytes_below (Nat.lt_succ_self a)]
    | succ k =>
      have := ih (m := Memory.set m a b) (a := a + 1) (k := k) (by simpa using h)
      rw [show a + (k + 1) = a + 1 + k by omega, this]; simp

/-- The bytes outside the written ones stay as they were. -/
theorem get?_setBytes_outside {bs : List Byte} {m : Memory} {a j : Nat} (h : j < a ∨ a + bs.length ≤ j) :
    Memory.get? (Memory.setBytes m a bs) j = Memory.get? m j := by
  induction bs generalizing m a with
  | nil => rfl
  | cons b bs ih =>
    simp only [List.length_cons] at h
    rw [Memory.setBytes, ih (by omega), get?_set_ne (by omega)]

/-- Writing consecutive bytes inside the buffer keeps the canonical form. -/
theorem wf_setBytes {bs : List Byte} {m : Memory} {a : Nat} (h : Memory.wf m) (ha : a + bs.length ≤ 65536) :
    Memory.wf (Memory.setBytes m a bs) := by
  induction bs generalizing m a with
  | nil => exact h
  | cons b bs ih =>
    simp only [List.length_cons] at ha
    exact ih (wf_set b h (by omega)) (by omega)

/-! ### Reading -/

theorem readByte_of_get? {m : Memory} {d i : Nat} {b : Byte} (h : Memory.get? m i = some b) :
    readByte m d i = b := by simp [readByte, h]

theorem readByte_of_unlisted {m : Memory} {d i : Nat} (h : Memory.get? m i = none) :
    readByte m d i = Config.freeByte d := by simp [readByte, h]

@[simp] theorem readSpan_length (m : Memory) (d i n : Nat) : (readSpan m d i n).length = n := by
  induction n generalizing d i with
  | zero => rfl
  | succ n ih => simp [readSpan, ih]

theorem readSpan_getElem? {m : Memory} {d i n k : Nat} (h : k < n) :
    (readSpan m d i n)[k]? = some (readByte m (d + k) (i + k)) := by
  induction n generalizing d i k with
  | zero => omega
  | succ n ih =>
    cases k with
    | zero => simp [readSpan]
    | succ k =>
      rw [readSpan, List.getElem?_cons_succ, ih (by omega)]
      simp only [Nat.add_assoc, Nat.add_comm 1]

/-! ### Byte order -/

@[simp] theorem be16_length (v : Half) : (be16 v).length = 2 := rfl

@[simp] theorem be32_length (v : Word) : (be32 v).length = 4 := rfl

theorem be16_toNat (v : Half) :
    (v.extractLsb' 8 8).toNat * 256 + (v.extractLsb' 0 8).toNat = v.toNat := by
  have := v.isLt
  simp only [BitVec.extractLsb'_toNat, Nat.shiftRight_eq_div_pow]
  omega

theorem toNat_append_byte {n : Nat} (x : BitVec n) (y : Byte) : (x ++ y).toNat = x.toNat * 256 + y.toNat := by
  rw [BitVec.toNat_append, ← Nat.shiftLeft_add_eq_or_of_lt y.isLt, Nat.shiftLeft_eq]

/-- A word as a number, from its bytes (20_memory.md R54). -/
theorem wordOf_toNat (b0 b1 b2 b3 : Byte) :
    (wordOf b0 b1 b2 b3).toNat = ((b0.toNat * 256 + b1.toNat) * 256 + b2.toNat) * 256 + b3.toNat := by
  simp only [wordOf, toNat_append_byte]

/-- A word is put together again from its four bytes. -/
theorem wordOf_be32 (v : Word) :
    wordOf (v.extractLsb' 24 8) (v.extractLsb' 16 8) (v.extractLsb' 8 8) (v.extractLsb' 0 8) = v := by
  apply BitVec.eq_of_toNat_eq
  have := v.isLt
  simp only [wordOf_toNat, BitVec.extractLsb'_toNat, Nat.shiftRight_eq_div_pow]
  omega

/-- The bytes of a word put together from four bytes. -/
theorem be32_wordOf (a b c d : Byte) : be32 (wordOf a b c d) = [a, b, c, d] := by
  have h := wordOf_toNat a b c d
  have := a.isLt; have := b.isLt; have := c.isLt; have := d.isLt
  simp only [be32]
  congr 1
  · apply BitVec.eq_of_toNat_eq; simp only [BitVec.extractLsb'_toNat, h, Nat.shiftRight_eq_div_pow]; omega
  congr 1
  · apply BitVec.eq_of_toNat_eq; simp only [BitVec.extractLsb'_toNat, h, Nat.shiftRight_eq_div_pow]; omega
  congr 1
  · apply BitVec.eq_of_toNat_eq; simp only [BitVec.extractLsb'_toNat, h, Nat.shiftRight_eq_div_pow]; omega
  congr 1
  · apply BitVec.eq_of_toNat_eq; simp only [BitVec.extractLsb'_toNat, h, Nat.shiftRight_eq_div_pow]; omega

/-- Byte k of a buffer word is the byte read at index i + k (20_memory.md R54). -/
theorem readBufferWord_byte (f : Nat → Byte) (i : Nat) {k : Nat} (hk : k < 4) :
    (readBufferWord f i).extractLsb' (24 - 8 * k) 8 = f (i + k) := by
  have h : be32 (readBufferWord f i) = _ := be32_wordOf _ _ _ _
  simp only [be32, List.cons.injEq, and_true] at h
  obtain ⟨h0, h1, h2, h3⟩ := h
  match k, hk with
  | 0, _ => exact h0
  | 1, _ => exact h1
  | 2, _ => exact h2
  | 3, _ => exact h3

end Sys2Proof.Machine
end

