-- ==== Sys2Proof/Laws/Checksum.lean ====
section
/-! SUPPORT. Laws of the word sum, the end-around carry fold and the adder, all read modulo 65535. -/

namespace Sys2Proof.Machine

/-! ### The word sum -/

/-- A span of even length in front contributes its own words. -/
theorem wordSum_append {D E : List Byte} (h : D.length % 2 = 0) : wordSum (D ++ E) = wordSum D + wordSum E := by
  match D with
  | [] => simp [wordSum]
  | [b] => simp at h
  | a :: b :: D =>
    have := wordSum_append (D := D) (E := E) (by simp only [List.length_cons] at h; omega)
    simp only [List.cons_append, wordSum, this]
    omega

theorem wordSum_be16_append (v : Half) (E : List Byte) : wordSum (be16 v ++ E) = v.toNat + wordSum E := by
  simp only [be16, List.cons_append, List.nil_append, wordSum, be16_toNat]

/-- Each byte, alone or in its word, adds at most 65535. -/
theorem wordSum_le_length (D : List Byte) : wordSum D ≤ 65535 * D.length := by
  match D with
  | [] => simp [wordSum]
  | [b] =>
    have := b.isLt
    simp only [wordSum, List.length_singleton]
    omega
  | a :: b :: D =>
    have := wordSum_le_length D
    have := a.isLt
    have := b.isLt
    simp only [wordSum, List.length_cons]
    omega

/-- Each pair of bytes is one word, the odd trailing byte another. -/
theorem wordSum_le_words (D : List Byte) : wordSum D ≤ 65535 * ((D.length + 1) / 2) := by
  match D with
  | [] => simp [wordSum]
  | [b] =>
    have := b.isLt
    simp only [wordSum, List.length_singleton]
    omega
  | a :: b :: D =>
    have := wordSum_le_words D
    have := a.isLt
    have := b.isLt
    simp only [wordSum, List.length_cons]
    omega

/-! ### The fold -/

/-- Enough fuel ends the loop below 2^16. -/
theorem foldCarry_lt {fuel S : Nat} (h : S ≤ 65535 * fuel) : foldCarry fuel S ≤ 65535 := by
  induction fuel generalizing S with
  | zero => simp only [foldCarry]; omega
  | succ fuel ih =>
    simp only [foldCarry]
    split_ifs with h0
    · omega
    · exact ih (by omega)

/-- A fold keeps the sum modulo 65535. -/
theorem foldCarry_mod (fuel S : Nat) : foldCarry fuel S % 65535 = S % 65535 := by
  induction fuel generalizing S with
  | zero => rfl
  | succ fuel ih =>
    simp only [foldCarry]
    split_ifs with h0
    · rfl
    · rw [ih]; omega

/-- A fold keeps a positive sum positive. -/
theorem foldCarry_pos {fuel S : Nat} (h : 0 < S) : 0 < foldCarry fuel S := by
  induction fuel generalizing S with
  | zero => exact h
  | succ fuel ih =>
    simp only [foldCarry]
    split_ifs with h0
    · exact h
    · exact ih (by omega)

@[simp] theorem foldCarry_zero (fuel : Nat) : foldCarry fuel 0 = 0 := by
  cases fuel <;> simp [foldCarry]

theorem foldedSum_le (D : List Byte) : foldedSum D ≤ 65535 := foldCarry_lt (wordSum_le_length D)

theorem foldedSum_mod (D : List Byte) : foldedSum D % 65535 = wordSum D % 65535 := foldCarry_mod _ _

theorem foldedSum_pos {D : List Byte} (h : 0 < wordSum D) : 0 < foldedSum D := foldCarry_pos h

theorem foldedSum_of_wordSum_zero {D : List Byte} (h : wordSum D = 0) : foldedSum D = 0 := by
  rw [foldedSum, h, foldCarry_zero]

/-- The folded sum depends on the word sum only. -/
theorem foldedSum_congr {D E : List Byte} (h : wordSum D = wordSum E) : foldedSum D = foldedSum E := by
  have hD := foldedSum_mod D
  have hE := foldedSum_mod E
  have h1 := foldedSum_le D
  have h2 := foldedSum_le E
  rcases Nat.eq_zero_or_pos (wordSum D) with h0 | h0
  · rw [foldedSum_of_wordSum_zero h0, foldedSum_of_wordSum_zero (h ▸ h0)]
  · have := foldedSum_pos h0
    have := foldedSum_pos (h ▸ h0 : 0 < wordSum E)
    omega

theorem csum_congr {D E : List Byte} (h : wordSum D = wordSum E) : csum D = csum E := by
  rw [csum, csum, foldedSum_congr h]

theorem csum_toNat (D : List Byte) : (csum D).toNat = 65535 - foldedSum D := by
  rw [csum, BitVec.toNat_ofNat]
  omega

/-! ### The adder -/

theorem endAroundAdd_le {acc w : Nat} (h : acc ≤ 65535) (hw : w ≤ 65535) : endAroundAdd acc w ≤ 65535 := by
  simp only [endAroundAdd]; omega

theorem endAroundAdd_mod (acc w : Nat) : endAroundAdd acc w % 65535 = (acc + w) % 65535 := by
  simp only [endAroundAdd]; omega

theorem endAroundAdd_eq_zero {acc w : Nat} : endAroundAdd acc w = 0 ↔ acc + w = 0 := by
  simp only [endAroundAdd]; omega

end Sys2Proof.Machine
end

