-- ==== Sys2Proof/Laws/Encoders.lean ====
section
/-! SUPPORT. Laws of the header encoders: lengths, the layout of the headers, and that the checksum fields are zero when summed. -/

namespace Sys2Proof.Machine

/-! ### Lengths -/

@[simp] theorem ipHdr_length (L : Nat) (src dst : Word) (id c : Half) : (ipHdr L src dst id c).length = 20 := rfl

@[simp] theorem tcpHdr_length (sport dport : Half) (seq ack : Word) (flags : BitVec 6) (win c : Half) :
    (tcpHdr sport dport seq ack flags win c).length = 20 := rfl

@[simp] theorem ipHdrFinal_length (x : Operands) : (ipHdrFinal x).length = 20 := rfl

@[simp] theorem tcpHdrFinal_length (x : Operands) : (tcpHdrFinal x).length = 20 := rfl

/-- The pseudo-header's copied addresses are those the IP header was built from, whatever its checksum field. -/
theorem pseudoHdr_ipHdr (L : Nat) (src dst : Word) (id c : Half) (N : Nat) :
    pseudoHdr (ipHdr L src dst id c) N
      = be32 src ++ be32 dst ++ [0x00] ++ [ipProtocol] ++ be16 (tcpSegmentLength N) := rfl

@[simp] theorem pseudoHdr_ipHdr_length (L : Nat) (src dst : Word) (id c : Half) (N : Nat) :
    (pseudoHdr (ipHdr L src dst id c) N).length = 12 := rfl

@[simp] theorem checksumInput_length (x : Operands) : (checksumInput x).length = 32 + x.len := by
  simp only [checksumInput, ipHdrZero, tcpHdrZero, List.length_append, pseudoHdr_ipHdr_length, tcpHdr_length,
    Operands.len]

@[simp] theorem frame_length (x : Operands) : (frameOf x).length = 40 + x.len := by
  simp only [frameOf, List.length_append, ipHdrFinal_length, tcpHdrFinal_length, Operands.len]

/-! ### The checksum fields -/

/-- The IP header is what stands before its checksum field, the field, and the addresses. -/
theorem ipHdr_split (L : Nat) (src dst : Word) (id c : Half) :
    ipHdr L src dst id c
      = ([ipVersionIhl, ipTos] ++ be16 (ipTotalLength L) ++ be16 id ++ [0x00, 0x00] ++ [ipTtl, ipProtocol])
        ++ be16 c ++ (be32 src ++ be32 dst) := by
  simp only [ipHdr, List.append_assoc]

/-- The TCP header is what stands before its checksum field, the field, and the urgent pointer. -/
theorem tcpHdr_split (sport dport : Half) (seq ack : Word) (flags : BitVec 6) (win c : Half) :
    tcpHdr sport dport seq ack flags win c
      = (be16 sport ++ be16 dport ++ be32 seq ++ be32 ack ++ [tcpDataOffset] ++ [flags.setWidth 8] ++ be16 win)
        ++ be16 c ++ [0x00, 0x00] := by
  simp only [tcpHdr]

/-- The encoder path always sums with both fields zero, so the defensive check passes. -/
@[simp] theorem checksumFieldsZero_eq (x : Operands) : checksumFieldsZero x = true := by
  simp [checksumFieldsZero, fieldIsZero, checksumInput, tcpHdrZero, tcpHdr, pseudoHdr, ipHdrZero, ipHdr, be16, be32]

end Sys2Proof.Machine
end

