-- ==== Sys2Proof/Laws/State.lean ====
section
/-! SUPPORT. What each shared update of the state does to each field: one lemma per field per update, true by unfolding the update. -/

namespace Sys2Proof.Machine

variable (s : State)

/-! ### start -/

@[simp] theorem start_srcAddr (c : Command) : (start c s).srcAddr = s.srcAddr := rfl
@[simp] theorem start_dstAddr (c : Command) : (start c s).dstAddr = s.dstAddr := rfl
@[simp] theorem start_srcPort (c : Command) : (start c s).srcPort = s.srcPort := rfl
@[simp] theorem start_dstPort (c : Command) : (start c s).dstPort = s.dstPort := rfl
@[simp] theorem start_seq (c : Command) : (start c s).seq = s.seq := rfl
@[simp] theorem start_ack (c : Command) : (start c s).ack = s.ack := rfl
@[simp] theorem start_flags (c : Command) : (start c s).flags = s.flags := rfl
@[simp] theorem start_payloadLen (c : Command) : (start c s).payloadLen = s.payloadLen := rfl
@[simp] theorem start_csumBase (c : Command) : (start c s).csumBase = s.csumBase := rfl
@[simp] theorem start_csumLen (c : Command) : (start c s).csumLen = s.csumLen := rfl
@[simp] theorem start_csumResult (c : Command) : (start c s).csumResult = s.csumResult := rfl
@[simp] theorem start_ipCsum (c : Command) : (start c s).ipCsum = s.ipCsum := rfl
@[simp] theorem start_tcpCsum (c : Command) : (start c s).tcpCsum = s.tcpCsum := rfl
@[simp] theorem start_frameLen (c : Command) : (start c s).frameLen = s.frameLen := rfl
@[simp] theorem start_done (c : Command) : (start c s).done = false := rfl
@[simp] theorem start_ign (c : Command) : (start c s).ign = s.ign := rfl
@[simp] theorem start_err (c : Command) : (start c s).err = .ok := rfl
@[simp] theorem start_phase (c : Command) : (start c s).phase = .busy c := rfl
@[simp] theorem start_data (c : Command) : (start c s).data = s.data := rfl
@[simp] theorem start_frame (c : Command) : (start c s).frame = s.frame := rfl
@[simp] theorem start_txLog (c : Command) : (start c s).txLog = s.txLog := rfl
@[simp] theorem start_rdata (c : Command) : (start c s).rdata = s.rdata := rfl
@[simp] theorem start_draws (c : Command) : (start c s).draws = s.draws := rfl
@[simp] theorem start_schedule (c : Command) : (start c s).schedule = s.schedule := rfl
@[simp] theorem start_slot (c : Command) : (start c s).slot = s.slot := rfl

/-! ### finish -/

@[simp] theorem finish_srcAddr (e : ErrCode) : (finish e s).srcAddr = s.srcAddr := rfl
@[simp] theorem finish_dstAddr (e : ErrCode) : (finish e s).dstAddr = s.dstAddr := rfl
@[simp] theorem finish_srcPort (e : ErrCode) : (finish e s).srcPort = s.srcPort := rfl
@[simp] theorem finish_dstPort (e : ErrCode) : (finish e s).dstPort = s.dstPort := rfl
@[simp] theorem finish_seq (e : ErrCode) : (finish e s).seq = s.seq := rfl
@[simp] theorem finish_ack (e : ErrCode) : (finish e s).ack = s.ack := rfl
@[simp] theorem finish_flags (e : ErrCode) : (finish e s).flags = s.flags := rfl
@[simp] theorem finish_payloadLen (e : ErrCode) : (finish e s).payloadLen = s.payloadLen := rfl
@[simp] theorem finish_csumBase (e : ErrCode) : (finish e s).csumBase = s.csumBase := rfl
@[simp] theorem finish_csumLen (e : ErrCode) : (finish e s).csumLen = s.csumLen := rfl
@[simp] theorem finish_csumResult (e : ErrCode) : (finish e s).csumResult = s.csumResult := rfl
@[simp] theorem finish_ipCsum (e : ErrCode) : (finish e s).ipCsum = s.ipCsum := rfl
@[simp] theorem finish_tcpCsum (e : ErrCode) : (finish e s).tcpCsum = s.tcpCsum := rfl
@[simp] theorem finish_frameLen (e : ErrCode) : (finish e s).frameLen = s.frameLen := rfl
@[simp] theorem finish_done (e : ErrCode) : (finish e s).done = true := rfl
@[simp] theorem finish_ign (e : ErrCode) : (finish e s).ign = s.ign := rfl
@[simp] theorem finish_err (e : ErrCode) : (finish e s).err = e := rfl
@[simp] theorem finish_phase (e : ErrCode) : (finish e s).phase = .idle := rfl
@[simp] theorem finish_data (e : ErrCode) : (finish e s).data = s.data := rfl
@[simp] theorem finish_frame (e : ErrCode) : (finish e s).frame = s.frame := rfl
@[simp] theorem finish_txLog (e : ErrCode) : (finish e s).txLog = s.txLog := rfl
@[simp] theorem finish_rdata (e : ErrCode) : (finish e s).rdata = s.rdata := rfl
@[simp] theorem finish_draws (e : ErrCode) : (finish e s).draws = s.draws := rfl
@[simp] theorem finish_schedule (e : ErrCode) : (finish e s).schedule = s.schedule := rfl
@[simp] theorem finish_slot (e : ErrCode) : (finish e s).slot = s.slot := rfl

/-! ### acknowledge -/

@[simp] theorem acknowledge_srcAddr : (acknowledge s).srcAddr = s.srcAddr := rfl
@[simp] theorem acknowledge_dstAddr : (acknowledge s).dstAddr = s.dstAddr := rfl
@[simp] theorem acknowledge_srcPort : (acknowledge s).srcPort = s.srcPort := rfl
@[simp] theorem acknowledge_dstPort : (acknowledge s).dstPort = s.dstPort := rfl
@[simp] theorem acknowledge_seq : (acknowledge s).seq = s.seq := rfl
@[simp] theorem acknowledge_ack : (acknowledge s).ack = s.ack := rfl
@[simp] theorem acknowledge_flags : (acknowledge s).flags = s.flags := rfl
@[simp] theorem acknowledge_payloadLen : (acknowledge s).payloadLen = s.payloadLen := rfl
@[simp] theorem acknowledge_csumBase : (acknowledge s).csumBase = s.csumBase := rfl
@[simp] theorem acknowledge_csumLen : (acknowledge s).csumLen = s.csumLen := rfl
@[simp] theorem acknowledge_csumResult : (acknowledge s).csumResult = s.csumResult := rfl
@[simp] theorem acknowledge_ipCsum : (acknowledge s).ipCsum = s.ipCsum := rfl
@[simp] theorem acknowledge_tcpCsum : (acknowledge s).tcpCsum = s.tcpCsum := rfl
@[simp] theorem acknowledge_frameLen : (acknowledge s).frameLen = s.frameLen := rfl
@[simp] theorem acknowledge_done : (acknowledge s).done = false := rfl
@[simp] theorem acknowledge_ign : (acknowledge s).ign = s.ign := rfl
@[simp] theorem acknowledge_err : (acknowledge s).err = .ok := rfl
@[simp] theorem acknowledge_phase : (acknowledge s).phase = s.phase := rfl
@[simp] theorem acknowledge_data : (acknowledge s).data = s.data := rfl
@[simp] theorem acknowledge_frame : (acknowledge s).frame = s.frame := rfl
@[simp] theorem acknowledge_txLog : (acknowledge s).txLog = s.txLog := rfl
@[simp] theorem acknowledge_rdata : (acknowledge s).rdata = s.rdata := rfl
@[simp] theorem acknowledge_draws : (acknowledge s).draws = s.draws := rfl
@[simp] theorem acknowledge_schedule : (acknowledge s).schedule = s.schedule := rfl
@[simp] theorem acknowledge_slot : (acknowledge s).slot = s.slot := rfl

/-! ### dropWrite -/

@[simp] theorem dropWrite_srcAddr : (dropWrite s).srcAddr = s.srcAddr := rfl
@[simp] theorem dropWrite_dstAddr : (dropWrite s).dstAddr = s.dstAddr := rfl
@[simp] theorem dropWrite_srcPort : (dropWrite s).srcPort = s.srcPort := rfl
@[simp] theorem dropWrite_dstPort : (dropWrite s).dstPort = s.dstPort := rfl
@[simp] theorem dropWrite_seq : (dropWrite s).seq = s.seq := rfl
@[simp] theorem dropWrite_ack : (dropWrite s).ack = s.ack := rfl
@[simp] theorem dropWrite_flags : (dropWrite s).flags = s.flags := rfl
@[simp] theorem dropWrite_payloadLen : (dropWrite s).payloadLen = s.payloadLen := rfl
@[simp] theorem dropWrite_csumBase : (dropWrite s).csumBase = s.csumBase := rfl
@[simp] theorem dropWrite_csumLen : (dropWrite s).csumLen = s.csumLen := rfl
@[simp] theorem dropWrite_csumResult : (dropWrite s).csumResult = s.csumResult := rfl
@[simp] theorem dropWrite_ipCsum : (dropWrite s).ipCsum = s.ipCsum := rfl
@[simp] theorem dropWrite_tcpCsum : (dropWrite s).tcpCsum = s.tcpCsum := rfl
@[simp] theorem dropWrite_frameLen : (dropWrite s).frameLen = s.frameLen := rfl
@[simp] theorem dropWrite_done : (dropWrite s).done = s.done := rfl
@[simp] theorem dropWrite_ign : (dropWrite s).ign = true := rfl
@[simp] theorem dropWrite_err : (dropWrite s).err = s.err := rfl
@[simp] theorem dropWrite_phase : (dropWrite s).phase = s.phase := rfl
@[simp] theorem dropWrite_data : (dropWrite s).data = s.data := rfl
@[simp] theorem dropWrite_frame : (dropWrite s).frame = s.frame := rfl
@[simp] theorem dropWrite_txLog : (dropWrite s).txLog = s.txLog := rfl
@[simp] theorem dropWrite_rdata : (dropWrite s).rdata = s.rdata := rfl
@[simp] theorem dropWrite_draws : (dropWrite s).draws = s.draws := rfl
@[simp] theorem dropWrite_schedule : (dropWrite s).schedule = s.schedule := rfl
@[simp] theorem dropWrite_slot : (dropWrite s).slot = s.slot := rfl

/-! ### illegalCommand -/

@[simp] theorem illegalCommand_srcAddr : (illegalCommand s).srcAddr = s.srcAddr := rfl
@[simp] theorem illegalCommand_dstAddr : (illegalCommand s).dstAddr = s.dstAddr := rfl
@[simp] theorem illegalCommand_srcPort : (illegalCommand s).srcPort = s.srcPort := rfl
@[simp] theorem illegalCommand_dstPort : (illegalCommand s).dstPort = s.dstPort := rfl
@[simp] theorem illegalCommand_seq : (illegalCommand s).seq = s.seq := rfl
@[simp] theorem illegalCommand_ack : (illegalCommand s).ack = s.ack := rfl
@[simp] theorem illegalCommand_flags : (illegalCommand s).flags = s.flags := rfl
@[simp] theorem illegalCommand_payloadLen : (illegalCommand s).payloadLen = s.payloadLen := rfl
@[simp] theorem illegalCommand_csumBase : (illegalCommand s).csumBase = s.csumBase := rfl
@[simp] theorem illegalCommand_csumLen : (illegalCommand s).csumLen = s.csumLen := rfl
@[simp] theorem illegalCommand_csumResult : (illegalCommand s).csumResult = s.csumResult := rfl
@[simp] theorem illegalCommand_ipCsum : (illegalCommand s).ipCsum = s.ipCsum := rfl
@[simp] theorem illegalCommand_tcpCsum : (illegalCommand s).tcpCsum = s.tcpCsum := rfl
@[simp] theorem illegalCommand_frameLen : (illegalCommand s).frameLen = s.frameLen := rfl
@[simp] theorem illegalCommand_done : (illegalCommand s).done = true := rfl
@[simp] theorem illegalCommand_ign : (illegalCommand s).ign = s.ign := rfl
@[simp] theorem illegalCommand_err : (illegalCommand s).err = .illegalCmd := rfl
@[simp] theorem illegalCommand_phase : (illegalCommand s).phase = s.phase := rfl
@[simp] theorem illegalCommand_data : (illegalCommand s).data = s.data := rfl
@[simp] theorem illegalCommand_frame : (illegalCommand s).frame = s.frame := rfl
@[simp] theorem illegalCommand_txLog : (illegalCommand s).txLog = s.txLog := rfl
@[simp] theorem illegalCommand_rdata : (illegalCommand s).rdata = s.rdata := rfl
@[simp] theorem illegalCommand_draws : (illegalCommand s).draws = s.draws := rfl
@[simp] theorem illegalCommand_schedule : (illegalCommand s).schedule = s.schedule := rfl
@[simp] theorem illegalCommand_slot : (illegalCommand s).slot = s.slot := rfl

/-! ### useDraws -/

@[simp] theorem useDraws_srcAddr (n : Nat) : (useDraws n s).srcAddr = s.srcAddr := rfl
@[simp] theorem useDraws_dstAddr (n : Nat) : (useDraws n s).dstAddr = s.dstAddr := rfl
@[simp] theorem useDraws_srcPort (n : Nat) : (useDraws n s).srcPort = s.srcPort := rfl
@[simp] theorem useDraws_dstPort (n : Nat) : (useDraws n s).dstPort = s.dstPort := rfl
@[simp] theorem useDraws_seq (n : Nat) : (useDraws n s).seq = s.seq := rfl
@[simp] theorem useDraws_ack (n : Nat) : (useDraws n s).ack = s.ack := rfl
@[simp] theorem useDraws_flags (n : Nat) : (useDraws n s).flags = s.flags := rfl
@[simp] theorem useDraws_payloadLen (n : Nat) : (useDraws n s).payloadLen = s.payloadLen := rfl
@[simp] theorem useDraws_csumBase (n : Nat) : (useDraws n s).csumBase = s.csumBase := rfl
@[simp] theorem useDraws_csumLen (n : Nat) : (useDraws n s).csumLen = s.csumLen := rfl
@[simp] theorem useDraws_csumResult (n : Nat) : (useDraws n s).csumResult = s.csumResult := rfl
@[simp] theorem useDraws_ipCsum (n : Nat) : (useDraws n s).ipCsum = s.ipCsum := rfl
@[simp] theorem useDraws_tcpCsum (n : Nat) : (useDraws n s).tcpCsum = s.tcpCsum := rfl
@[simp] theorem useDraws_frameLen (n : Nat) : (useDraws n s).frameLen = s.frameLen := rfl
@[simp] theorem useDraws_done (n : Nat) : (useDraws n s).done = s.done := rfl
@[simp] theorem useDraws_ign (n : Nat) : (useDraws n s).ign = s.ign := rfl
@[simp] theorem useDraws_err (n : Nat) : (useDraws n s).err = s.err := rfl
@[simp] theorem useDraws_phase (n : Nat) : (useDraws n s).phase = s.phase := rfl
@[simp] theorem useDraws_data (n : Nat) : (useDraws n s).data = s.data := rfl
@[simp] theorem useDraws_frame (n : Nat) : (useDraws n s).frame = s.frame := rfl
@[simp] theorem useDraws_txLog (n : Nat) : (useDraws n s).txLog = s.txLog := rfl
@[simp] theorem useDraws_rdata (n : Nat) : (useDraws n s).rdata = s.rdata := rfl
@[simp] theorem useDraws_draws (n : Nat) : (useDraws n s).draws = s.draws + n := rfl
@[simp] theorem useDraws_schedule (n : Nat) : (useDraws n s).schedule = s.schedule := rfl
@[simp] theorem useDraws_slot (n : Nat) : (useDraws n s).slot = s.slot := rfl

/-! ### logSend -/

@[simp] theorem logSend_srcAddr (t : TxRecord) : (logSend t s).srcAddr = s.srcAddr := rfl
@[simp] theorem logSend_dstAddr (t : TxRecord) : (logSend t s).dstAddr = s.dstAddr := rfl
@[simp] theorem logSend_srcPort (t : TxRecord) : (logSend t s).srcPort = s.srcPort := rfl
@[simp] theorem logSend_dstPort (t : TxRecord) : (logSend t s).dstPort = s.dstPort := rfl
@[simp] theorem logSend_seq (t : TxRecord) : (logSend t s).seq = s.seq := rfl
@[simp] theorem logSend_ack (t : TxRecord) : (logSend t s).ack = s.ack := rfl
@[simp] theorem logSend_flags (t : TxRecord) : (logSend t s).flags = s.flags := rfl
@[simp] theorem logSend_payloadLen (t : TxRecord) : (logSend t s).payloadLen = s.payloadLen := rfl
@[simp] theorem logSend_csumBase (t : TxRecord) : (logSend t s).csumBase = s.csumBase := rfl
@[simp] theorem logSend_csumLen (t : TxRecord) : (logSend t s).csumLen = s.csumLen := rfl
@[simp] theorem logSend_csumResult (t : TxRecord) : (logSend t s).csumResult = s.csumResult := rfl
@[simp] theorem logSend_ipCsum (t : TxRecord) : (logSend t s).ipCsum = s.ipCsum := rfl
@[simp] theorem logSend_tcpCsum (t : TxRecord) : (logSend t s).tcpCsum = s.tcpCsum := rfl
@[simp] theorem logSend_frameLen (t : TxRecord) : (logSend t s).frameLen = s.frameLen := rfl
@[simp] theorem logSend_done (t : TxRecord) : (logSend t s).done = s.done := rfl
@[simp] theorem logSend_ign (t : TxRecord) : (logSend t s).ign = s.ign := rfl
@[simp] theorem logSend_err (t : TxRecord) : (logSend t s).err = s.err := rfl
@[simp] theorem logSend_phase (t : TxRecord) : (logSend t s).phase = s.phase := rfl
@[simp] theorem logSend_data (t : TxRecord) : (logSend t s).data = s.data := rfl
@[simp] theorem logSend_frame (t : TxRecord) : (logSend t s).frame = s.frame := rfl
@[simp] theorem logSend_txLog (t : TxRecord) : (logSend t s).txLog = s.txLog ++ [t] := rfl
@[simp] theorem logSend_rdata (t : TxRecord) : (logSend t s).rdata = s.rdata := rfl
@[simp] theorem logSend_draws (t : TxRecord) : (logSend t s).draws = s.draws := rfl
@[simp] theorem logSend_schedule (t : TxRecord) : (logSend t s).schedule = s.schedule := rfl
@[simp] theorem logSend_slot (t : TxRecord) : (logSend t s).slot = s.slot := rfl

/-! ### writeResults -/

@[simp] theorem writeResults_srcAddr (x : Operands) : (writeResults x s).srcAddr = s.srcAddr := by simp only [writeResults]
@[simp] theorem writeResults_dstAddr (x : Operands) : (writeResults x s).dstAddr = s.dstAddr := by simp only [writeResults]
@[simp] theorem writeResults_srcPort (x : Operands) : (writeResults x s).srcPort = s.srcPort := by simp only [writeResults]
@[simp] theorem writeResults_dstPort (x : Operands) : (writeResults x s).dstPort = s.dstPort := by simp only [writeResults]
@[simp] theorem writeResults_seq (x : Operands) : (writeResults x s).seq = s.seq := by simp only [writeResults]
@[simp] theorem writeResults_ack (x : Operands) : (writeResults x s).ack = s.ack := by simp only [writeResults]
@[simp] theorem writeResults_flags (x : Operands) : (writeResults x s).flags = s.flags := by simp only [writeResults]
@[simp] theorem writeResults_payloadLen (x : Operands) : (writeResults x s).payloadLen = s.payloadLen := by simp only [writeResults]
@[simp] theorem writeResults_csumBase (x : Operands) : (writeResults x s).csumBase = s.csumBase := by simp only [writeResults]
@[simp] theorem writeResults_csumLen (x : Operands) : (writeResults x s).csumLen = s.csumLen := by simp only [writeResults]
@[simp] theorem writeResults_csumResult (x : Operands) : (writeResults x s).csumResult = s.csumResult := by simp only [writeResults]
@[simp] theorem writeResults_ipCsum (x : Operands) : (writeResults x s).ipCsum = ipChecksum x := by simp only [writeResults]
@[simp] theorem writeResults_tcpCsum (x : Operands) : (writeResults x s).tcpCsum = tcpChecksum x := by simp only [writeResults]
@[simp] theorem writeResults_frameLen (x : Operands) : (writeResults x s).frameLen = BitVec.ofNat 16 (40 + x.len) := by simp only [writeResults]
@[simp] theorem writeResults_done (x : Operands) : (writeResults x s).done = s.done := by simp only [writeResults]
@[simp] theorem writeResults_ign (x : Operands) : (writeResults x s).ign = s.ign := by simp only [writeResults]
@[simp] theorem writeResults_err (x : Operands) : (writeResults x s).err = s.err := by simp only [writeResults]
@[simp] theorem writeResults_phase (x : Operands) : (writeResults x s).phase = s.phase := by simp only [writeResults]
@[simp] theorem writeResults_data (x : Operands) : (writeResults x s).data = s.data := by simp only [writeResults]
@[simp] theorem writeResults_frame (x : Operands) : (writeResults x s).frame = Memory.setBytes s.frame 0 (frameOf x) := by simp only [writeResults]
@[simp] theorem writeResults_txLog (x : Operands) : (writeResults x s).txLog = s.txLog := by simp only [writeResults]
@[simp] theorem writeResults_rdata (x : Operands) : (writeResults x s).rdata = s.rdata := by simp only [writeResults]
@[simp] theorem writeResults_draws (x : Operands) : (writeResults x s).draws = s.draws := by simp only [writeResults]
@[simp] theorem writeResults_schedule (x : Operands) : (writeResults x s).schedule = s.schedule := by simp only [writeResults]
@[simp] theorem writeResults_slot (x : Operands) : (writeResults x s).slot = s.slot := by simp only [writeResults]

/-! ### writeChecksum -/

@[simp] theorem writeChecksum_srcAddr (c : Half) : (writeChecksum c s).srcAddr = s.srcAddr := rfl
@[simp] theorem writeChecksum_dstAddr (c : Half) : (writeChecksum c s).dstAddr = s.dstAddr := rfl
@[simp] theorem writeChecksum_srcPort (c : Half) : (writeChecksum c s).srcPort = s.srcPort := rfl
@[simp] theorem writeChecksum_dstPort (c : Half) : (writeChecksum c s).dstPort = s.dstPort := rfl
@[simp] theorem writeChecksum_seq (c : Half) : (writeChecksum c s).seq = s.seq := rfl
@[simp] theorem writeChecksum_ack (c : Half) : (writeChecksum c s).ack = s.ack := rfl
@[simp] theorem writeChecksum_flags (c : Half) : (writeChecksum c s).flags = s.flags := rfl
@[simp] theorem writeChecksum_payloadLen (c : Half) : (writeChecksum c s).payloadLen = s.payloadLen := rfl
@[simp] theorem writeChecksum_csumBase (c : Half) : (writeChecksum c s).csumBase = s.csumBase := rfl
@[simp] theorem writeChecksum_csumLen (c : Half) : (writeChecksum c s).csumLen = s.csumLen := rfl
@[simp] theorem writeChecksum_csumResult (c : Half) : (writeChecksum c s).csumResult = c := rfl
@[simp] theorem writeChecksum_ipCsum (c : Half) : (writeChecksum c s).ipCsum = s.ipCsum := rfl
@[simp] theorem writeChecksum_tcpCsum (c : Half) : (writeChecksum c s).tcpCsum = s.tcpCsum := rfl
@[simp] theorem writeChecksum_frameLen (c : Half) : (writeChecksum c s).frameLen = s.frameLen := rfl
@[simp] theorem writeChecksum_done (c : Half) : (writeChecksum c s).done = s.done := rfl
@[simp] theorem writeChecksum_ign (c : Half) : (writeChecksum c s).ign = s.ign := rfl
@[simp] theorem writeChecksum_err (c : Half) : (writeChecksum c s).err = s.err := rfl
@[simp] theorem writeChecksum_phase (c : Half) : (writeChecksum c s).phase = s.phase := rfl
@[simp] theorem writeChecksum_data (c : Half) : (writeChecksum c s).data = s.data := rfl
@[simp] theorem writeChecksum_frame (c : Half) : (writeChecksum c s).frame = s.frame := rfl
@[simp] theorem writeChecksum_txLog (c : Half) : (writeChecksum c s).txLog = s.txLog := rfl
@[simp] theorem writeChecksum_rdata (c : Half) : (writeChecksum c s).rdata = s.rdata := rfl
@[simp] theorem writeChecksum_draws (c : Half) : (writeChecksum c s).draws = s.draws := rfl
@[simp] theorem writeChecksum_schedule (c : Half) : (writeChecksum c s).schedule = s.schedule := rfl
@[simp] theorem writeChecksum_slot (c : Half) : (writeChecksum c s).slot = s.slot := rfl

/-! ### hostRead -/

@[simp] theorem hostRead_srcAddr (a : Nat) : (hostRead a s).srcAddr = s.srcAddr := rfl
@[simp] theorem hostRead_dstAddr (a : Nat) : (hostRead a s).dstAddr = s.dstAddr := rfl
@[simp] theorem hostRead_srcPort (a : Nat) : (hostRead a s).srcPort = s.srcPort := rfl
@[simp] theorem hostRead_dstPort (a : Nat) : (hostRead a s).dstPort = s.dstPort := rfl
@[simp] theorem hostRead_seq (a : Nat) : (hostRead a s).seq = s.seq := rfl
@[simp] theorem hostRead_ack (a : Nat) : (hostRead a s).ack = s.ack := rfl
@[simp] theorem hostRead_flags (a : Nat) : (hostRead a s).flags = s.flags := rfl
@[simp] theorem hostRead_payloadLen (a : Nat) : (hostRead a s).payloadLen = s.payloadLen := rfl
@[simp] theorem hostRead_csumBase (a : Nat) : (hostRead a s).csumBase = s.csumBase := rfl
@[simp] theorem hostRead_csumLen (a : Nat) : (hostRead a s).csumLen = s.csumLen := rfl
@[simp] theorem hostRead_csumResult (a : Nat) : (hostRead a s).csumResult = s.csumResult := rfl
@[simp] theorem hostRead_ipCsum (a : Nat) : (hostRead a s).ipCsum = s.ipCsum := rfl
@[simp] theorem hostRead_tcpCsum (a : Nat) : (hostRead a s).tcpCsum = s.tcpCsum := rfl
@[simp] theorem hostRead_frameLen (a : Nat) : (hostRead a s).frameLen = s.frameLen := rfl
@[simp] theorem hostRead_done (a : Nat) : (hostRead a s).done = s.done := rfl
@[simp] theorem hostRead_ign (a : Nat) : (hostRead a s).ign = s.ign := rfl
@[simp] theorem hostRead_err (a : Nat) : (hostRead a s).err = s.err := rfl
@[simp] theorem hostRead_phase (a : Nat) : (hostRead a s).phase = s.phase := rfl
@[simp] theorem hostRead_data (a : Nat) : (hostRead a s).data = s.data := rfl
@[simp] theorem hostRead_frame (a : Nat) : (hostRead a s).frame = s.frame := rfl
@[simp] theorem hostRead_txLog (a : Nat) : (hostRead a s).txLog = s.txLog := rfl
@[simp] theorem hostRead_rdata (a : Nat) : (hostRead a s).rdata = readValue a s := rfl
@[simp] theorem hostRead_draws (a : Nat) : (hostRead a s).draws = s.draws + 4 := rfl
@[simp] theorem hostRead_schedule (a : Nat) : (hostRead a s).schedule = s.schedule := rfl
@[simp] theorem hostRead_slot (a : Nat) : (hostRead a s).slot = s.slot := rfl

/-! ### storeData -/

@[simp] theorem storeData_srcAddr (i : Nat) (v : Word) : (storeData i v s).srcAddr = s.srcAddr := rfl
@[simp] theorem storeData_dstAddr (i : Nat) (v : Word) : (storeData i v s).dstAddr = s.dstAddr := rfl
@[simp] theorem storeData_srcPort (i : Nat) (v : Word) : (storeData i v s).srcPort = s.srcPort := rfl
@[simp] theorem storeData_dstPort (i : Nat) (v : Word) : (storeData i v s).dstPort = s.dstPort := rfl
@[simp] theorem storeData_seq (i : Nat) (v : Word) : (storeData i v s).seq = s.seq := rfl
@[simp] theorem storeData_ack (i : Nat) (v : Word) : (storeData i v s).ack = s.ack := rfl
@[simp] theorem storeData_flags (i : Nat) (v : Word) : (storeData i v s).flags = s.flags := rfl
@[simp] theorem storeData_payloadLen (i : Nat) (v : Word) : (storeData i v s).payloadLen = s.payloadLen := rfl
@[simp] theorem storeData_csumBase (i : Nat) (v : Word) : (storeData i v s).csumBase = s.csumBase := rfl
@[simp] theorem storeData_csumLen (i : Nat) (v : Word) : (storeData i v s).csumLen = s.csumLen := rfl
@[simp] theorem storeData_csumResult (i : Nat) (v : Word) : (storeData i v s).csumResult = s.csumResult := rfl
@[simp] theorem storeData_ipCsum (i : Nat) (v : Word) : (storeData i v s).ipCsum = s.ipCsum := rfl
@[simp] theorem storeData_tcpCsum (i : Nat) (v : Word) : (storeData i v s).tcpCsum = s.tcpCsum := rfl
@[simp] theorem storeData_frameLen (i : Nat) (v : Word) : (storeData i v s).frameLen = s.frameLen := rfl
@[simp] theorem storeData_done (i : Nat) (v : Word) : (storeData i v s).done = s.done := rfl
@[simp] theorem storeData_ign (i : Nat) (v : Word) : (storeData i v s).ign = s.ign := rfl
@[simp] theorem storeData_err (i : Nat) (v : Word) : (storeData i v s).err = s.err := rfl
@[simp] theorem storeData_phase (i : Nat) (v : Word) : (storeData i v s).phase = s.phase := rfl
@[simp] theorem storeData_data (i : Nat) (v : Word) : (storeData i v s).data = Memory.setBytes s.data i (be32 v) := rfl
@[simp] theorem storeData_frame (i : Nat) (v : Word) : (storeData i v s).frame = s.frame := rfl
@[simp] theorem storeData_txLog (i : Nat) (v : Word) : (storeData i v s).txLog = s.txLog := rfl
@[simp] theorem storeData_rdata (i : Nat) (v : Word) : (storeData i v s).rdata = s.rdata := rfl
@[simp] theorem storeData_draws (i : Nat) (v : Word) : (storeData i v s).draws = s.draws := rfl
@[simp] theorem storeData_schedule (i : Nat) (v : Word) : (storeData i v s).schedule = s.schedule := rfl
@[simp] theorem storeData_slot (i : Nat) (v : Word) : (storeData i v s).slot = s.slot := rfl

/-! ### beginTurn -/

@[simp] theorem beginTurn_srcAddr : (beginTurn s).srcAddr = s.srcAddr := rfl
@[simp] theorem beginTurn_dstAddr : (beginTurn s).dstAddr = s.dstAddr := rfl
@[simp] theorem beginTurn_srcPort : (beginTurn s).srcPort = s.srcPort := rfl
@[simp] theorem beginTurn_dstPort : (beginTurn s).dstPort = s.dstPort := rfl
@[simp] theorem beginTurn_seq : (beginTurn s).seq = s.seq := rfl
@[simp] theorem beginTurn_ack : (beginTurn s).ack = s.ack := rfl
@[simp] theorem beginTurn_flags : (beginTurn s).flags = s.flags := rfl
@[simp] theorem beginTurn_payloadLen : (beginTurn s).payloadLen = s.payloadLen := rfl
@[simp] theorem beginTurn_csumBase : (beginTurn s).csumBase = s.csumBase := rfl
@[simp] theorem beginTurn_csumLen : (beginTurn s).csumLen = s.csumLen := rfl
@[simp] theorem beginTurn_csumResult : (beginTurn s).csumResult = s.csumResult := rfl
@[simp] theorem beginTurn_ipCsum : (beginTurn s).ipCsum = s.ipCsum := rfl
@[simp] theorem beginTurn_tcpCsum : (beginTurn s).tcpCsum = s.tcpCsum := rfl
@[simp] theorem beginTurn_frameLen : (beginTurn s).frameLen = s.frameLen := rfl
@[simp] theorem beginTurn_done : (beginTurn s).done = s.done := rfl
@[simp] theorem beginTurn_ign : (beginTurn s).ign = s.ign := rfl
@[simp] theorem beginTurn_err : (beginTurn s).err = s.err := rfl
@[simp] theorem beginTurn_phase : (beginTurn s).phase = s.phase := rfl
@[simp] theorem beginTurn_data : (beginTurn s).data = s.data := rfl
@[simp] theorem beginTurn_frame : (beginTurn s).frame = s.frame := rfl
@[simp] theorem beginTurn_txLog : (beginTurn s).txLog = s.txLog := rfl
@[simp] theorem beginTurn_rdata : (beginTurn s).rdata = s.rdata := rfl
@[simp] theorem beginTurn_draws : (beginTurn s).draws = s.draws := rfl
@[simp] theorem beginTurn_schedule : (beginTurn s).schedule = s.schedule.tail := rfl
@[simp] theorem beginTurn_slot : (beginTurn s).slot = (nextTurn s).engine := rfl

/-! ### resetBlock -/

@[simp] theorem resetBlock_srcAddr : (resetBlock s).srcAddr = State.reset.srcAddr := rfl
@[simp] theorem resetBlock_dstAddr : (resetBlock s).dstAddr = State.reset.dstAddr := rfl
@[simp] theorem resetBlock_srcPort : (resetBlock s).srcPort = State.reset.srcPort := rfl
@[simp] theorem resetBlock_dstPort : (resetBlock s).dstPort = State.reset.dstPort := rfl
@[simp] theorem resetBlock_seq : (resetBlock s).seq = State.reset.seq := rfl
@[simp] theorem resetBlock_ack : (resetBlock s).ack = State.reset.ack := rfl
@[simp] theorem resetBlock_flags : (resetBlock s).flags = State.reset.flags := rfl
@[simp] theorem resetBlock_payloadLen : (resetBlock s).payloadLen = State.reset.payloadLen := rfl
@[simp] theorem resetBlock_csumBase : (resetBlock s).csumBase = State.reset.csumBase := rfl
@[simp] theorem resetBlock_csumLen : (resetBlock s).csumLen = State.reset.csumLen := rfl
@[simp] theorem resetBlock_csumResult : (resetBlock s).csumResult = State.reset.csumResult := rfl
@[simp] theorem resetBlock_ipCsum : (resetBlock s).ipCsum = State.reset.ipCsum := rfl
@[simp] theorem resetBlock_tcpCsum : (resetBlock s).tcpCsum = State.reset.tcpCsum := rfl
@[simp] theorem resetBlock_frameLen : (resetBlock s).frameLen = State.reset.frameLen := rfl
@[simp] theorem resetBlock_done : (resetBlock s).done = State.reset.done := rfl
@[simp] theorem resetBlock_ign : (resetBlock s).ign = State.reset.ign := rfl
@[simp] theorem resetBlock_err : (resetBlock s).err = State.reset.err := rfl
@[simp] theorem resetBlock_phase : (resetBlock s).phase = State.reset.phase := rfl
@[simp] theorem resetBlock_data : (resetBlock s).data = State.reset.data := rfl
@[simp] theorem resetBlock_frame : (resetBlock s).frame = State.reset.frame := rfl
@[simp] theorem resetBlock_txLog : (resetBlock s).txLog = s.txLog := rfl
@[simp] theorem resetBlock_rdata : (resetBlock s).rdata = s.rdata := rfl
@[simp] theorem resetBlock_draws : (resetBlock s).draws = s.draws := rfl
@[simp] theorem resetBlock_schedule : (resetBlock s).schedule = s.schedule := rfl
@[simp] theorem resetBlock_slot : (resetBlock s).slot = s.slot := rfl

/-! ### busy -/

@[simp] theorem start_busy (c : Command) : (start c s).busy = true := rfl
@[simp] theorem finish_busy (e : ErrCode) : (finish e s).busy = false := rfl
@[simp] theorem acknowledge_busy : (acknowledge s).busy = s.busy := rfl
@[simp] theorem dropWrite_busy : (dropWrite s).busy = s.busy := rfl
@[simp] theorem illegalCommand_busy : (illegalCommand s).busy = s.busy := rfl
@[simp] theorem useDraws_busy (n : Nat) : (useDraws n s).busy = s.busy := rfl
@[simp] theorem logSend_busy (t : TxRecord) : (logSend t s).busy = s.busy := rfl
@[simp] theorem writeResults_busy (x : Operands) : (writeResults x s).busy = s.busy := by simp only [State.busy, writeResults_phase]
@[simp] theorem writeChecksum_busy (c : Half) : (writeChecksum c s).busy = s.busy := rfl
@[simp] theorem hostRead_busy (a : Nat) : (hostRead a s).busy = s.busy := rfl
@[simp] theorem storeData_busy (i : Nat) (v : Word) : (storeData i v s).busy = s.busy := rfl
@[simp] theorem beginTurn_busy : (beginTurn s).busy = s.busy := rfl
@[simp] theorem resetBlock_busy : (resetBlock s).busy = false := rfl

end Sys2Proof.Machine
end

