-- ==== Sys2Proof/Laws/Engine.lean ====
section
/-! SUPPORT. What the engine can do, said once: each command's engine step in closed form, and the cases of the engine's turn. -/

namespace Sys2Proof.Machine

/-! ### The phase -/

theorem busy_iff {s : State} : s.busy = true ↔ ∃ c, s.phase = .busy c := by
  unfold State.busy; split <;> simp [*]

theorem not_busy_iff {s : State} : s.busy = false ↔ s.phase = .idle := by
  unfold State.busy; split <;> simp [*]

theorem whenIdle_idle {s : State} (f : State → State) (h : s.phase = .idle) : whenIdle f s = f s := by
  simp [whenIdle, h]

theorem whenIdle_busy {s : State} {c : Command} (f : State → State) (h : s.phase = .busy c) :
    whenIdle f s = dropWrite s := by
  simp [whenIdle, h]

/-! ### The steps in closed form -/

/-- The defensive check never fails, so the assembly always answers its results. -/
theorem assembleWith_eq (p : Params) (s : State) :
    assembleWith p s = .ok (useDraws (payloadLength s) (writeResults (operandsWith p s) s)) := by
  simp only [assembleWith, checksumFieldsZero_eq, if_true]

theorem runCsum_of_long {s : State} (h : spanTooLong s = true) : runCsum s = .next (finish .invalidInput s) := by
  simp only [runCsum, h, if_true, raiseError]

theorem runCsum_of_fits {s : State} (h : spanTooLong s = false) :
    runCsum s = .next (finish .ok (useDraws (spanLength s) (writeChecksum (csum (spanBytes s)) s))) := by
  simp only [runCsum, h, Bool.false_eq_true, if_false]

theorem runBuildWith_of_long {p : Params} {s : State} (h : payloadTooLong s = true) :
    runBuildWith p s = .next (finish .invalidInput s) := by
  simp only [runBuildWith, h, if_true, raiseError]

theorem runBuildWith_of_fits {p : Params} {s : State} (h : payloadTooLong s = false) :
    runBuildWith p s
      = .next (finish .ok (useDraws (payloadLength s) (writeResults (operandsWith p s) s))) := by
  simp only [runBuildWith, h, Bool.false_eq_true, if_false, assembleWith_eq]

theorem runSendWith_of_long {p : Params} {sink : Option (BitVec 2)} {s : State} (h : payloadTooLong s = true) :
    runSendWith p sink s = .next (finish .invalidInput s) := by
  simp only [runSendWith, h, if_true, raiseError]

theorem runSendWith_silent {p : Params} {s : State} (h : payloadTooLong s = false) :
    runSendWith p none s = .next s := by
  simp only [runSendWith, h, Bool.false_eq_true, if_false]

theorem runSendWith_answered {p : Params} {s : State} (code : BitVec 2) (h : payloadTooLong s = false) :
    runSendWith p (some code) s
      = .next (finish (responseOf code).errCode
          (logSend (txRecord s (frameOf (operandsWith p s)) (responseOf code))
            (useDraws (payloadLength s) (writeResults (operandsWith p s) s)))) := by
  simp only [runSendWith, h, Bool.false_eq_true, if_false, assembleWith_eq]

/-! ### The engine's turn -/

theorem engineTurn_idle {s : State} (h : s.phase = .idle) : engineTurn s = .next s := by
  simp only [engineTurn, engineTurnWith, h]

theorem engineTurn_hold {s : State} (h : s.slot = .hold) : engineTurn s = .next s := by
  unfold engineTurn engineTurnWith
  split
  · rfl
  · simp only [h]

theorem engineTurn_go {s : State} {c : Command} {sink : Option (BitVec 2)} (h : s.phase = .busy c)
    (hs : s.slot = .go sink) : engineTurn s = engineStepWith Config.params c sink s := by
  simp only [engineTurn, engineTurnWith, h, hs]

/-- Everything an engine step can answer: nothing happens, an error code alone, a checksum, a frame, or a frame that was sent. -/
theorem engineStep_cases (p : Params) (c : Command) (sink : Option (BitVec 2)) (s : State) :
    engineStepWith p c sink s = .next s ∨
    engineStepWith p c sink s = .next (finish .invalidInput s) ∨
    (c = .csum ∧ spanTooLong s = false ∧ engineStepWith p c sink s
      = .next (finish .ok (useDraws (spanLength s) (writeChecksum (csum (spanBytes s)) s)))) ∨
    (c = .build ∧ payloadTooLong s = false ∧ engineStepWith p c sink s
      = .next (finish .ok (useDraws (payloadLength s) (writeResults (operandsWith p s) s)))) ∨
    (c = .send ∧ payloadTooLong s = false ∧ ∃ code, sink = some code ∧ engineStepWith p c sink s
      = .next (finish (responseOf code).errCode
          (logSend (txRecord s (frameOf (operandsWith p s)) (responseOf code))
            (useDraws (payloadLength s) (writeResults (operandsWith p s) s))))) := by
  cases c with
  | csum =>
    simp only [engineStepWith]
    cases hl : spanTooLong s with
    | true => exact .inr (.inl (runCsum_of_long hl))
    | false => exact .inr (.inr (.inl ⟨trivial, rfl, runCsum_of_fits hl⟩))
  | build =>
    simp only [engineStepWith]
    cases hl : payloadTooLong s with
    | true => exact .inr (.inl (runBuildWith_of_long hl))
    | false => exact .inr (.inr (.inr (.inl ⟨trivial, rfl, runBuildWith_of_fits hl⟩)))
  | send =>
    simp only [engineStepWith]
    cases hl : payloadTooLong s with
    | true => exact .inr (.inl (runSendWith_of_long hl))
    | false =>
      cases sink with
      | none => exact .inl (runSendWith_silent hl)
      | some code => exact .inr (.inr (.inr (.inr ⟨trivial, rfl, code, rfl, runSendWith_answered code hl⟩)))

/-- Everything the engine's turn can answer: nothing happens, or the engine step of the latched command. -/
theorem engineTurn_cases (s : State) :
    engineTurn s = .next s ∨
    ∃ c sink, s.phase = .busy c ∧ s.slot = .go sink ∧ engineTurn s = engineStepWith Config.params c sink s := by
  cases hp : s.phase with
  | idle => exact .inl (engineTurn_idle hp)
  | busy c =>
    cases hs : s.slot with
    | hold => exact .inl (engineTurn_hold hs)
    | go sink => exact .inr ⟨c, sink, rfl, rfl, engineTurn_go hp hs⟩

end Sys2Proof.Machine
end

