-- ==== Sys2Proof/Laws/Bus.lean ====
section
/-! SUPPORT. What the host side can do, said once: the address map at the bounds the bus lets through, the stores, and the turns. -/

namespace Sys2Proof.Machine

/-! ### The address map -/

theorem regionOf_data {i : Nat} (h : i < 65536) : regionOf (0x10000 + i) = .data i := by
  simp only [regionOf]
  rw [if_neg (by omega), if_neg (by omega), if_pos (by omega)]
  congr 1
  omega

theorem regionOf_frame {i : Nat} (h : i < 65536) : regionOf (0x20000 + i) = .frame i := by
  simp only [regionOf]
  rw [if_neg (by omega), if_neg (by omega), if_neg (by omega), if_pos (by omega)]
  congr 1
  omega

/-- A data-window offset the bus lets through names four bytes inside the buffer. -/
theorem data_index_bound {a i : Nat} (h : regionOf a = .data i) (h4 : a % 4 = 0) : i + 4 ≤ 65536 := by
  simp only [regionOf] at h
  split_ifs at h
  simp only [Region.data.injEq] at h
  omega

/-! ### Stores -/

/-- What a store other than a CTRL write can do: nothing, STATUS bits cleared, IGN set, an input register, or four data bytes. -/
theorem hostStore_cases (g : Region) (v : Word) (s : State) :
    hostStore g v s = s ∨
    (g = .reg .status ∧ hostStore g v s = writeStatus v s) ∨
    ((∃ c, s.phase = .busy c) ∧ hostStore g v s = dropWrite s) ∨
    (s.phase = .idle ∧ ∃ r, g = .reg (.input r) ∧ hostStore g v s = storeInput r v s) ∨
    (s.phase = .idle ∧ ∃ i, g = .data i ∧ hostStore g v s = storeData i v s) := by
  match g with
  | .reg .ctrl => exact .inl rfl
  | .reg .status => exact .inr (.inl ⟨rfl, rfl⟩)
  | .reg (.input r) =>
    cases hp : s.phase with
    | idle => exact .inr (.inr (.inr (.inl ⟨rfl, r, rfl, whenIdle_idle _ hp⟩)))
    | busy c => exact .inr (.inr (.inl ⟨⟨c, rfl⟩, whenIdle_busy _ hp⟩))
  | .reg (.result _) => exact .inl rfl
  | .data i =>
    cases hp : s.phase with
    | idle => exact .inr (.inr (.inr (.inr ⟨rfl, i, rfl, whenIdle_idle _ hp⟩)))
    | busy c => exact .inr (.inr (.inl ⟨⟨c, rfl⟩, whenIdle_busy _ hp⟩))
  | .frame _ => exact .inl rfl
  | .unmapped => exact .inl rfl

/-- A STATUS write clears DONE and ERR together, and IGN by itself (10_state.md R25). -/
theorem writeStatus_eq (v : Word) (s : State) :
    writeStatus v s
      = { s with
          done := if v.getLsbD 1 then false else s.done
          err := if v.getLsbD 1 then .ok else s.err
          ign := if v.getLsbD 2 then false else s.ign } := by
  simp only [writeStatus, acknowledge]
  cases v.getLsbD 1 <;> cases v.getLsbD 2 <;> rfl

/-! ### The bus -/

theorem busFault_eq_none {t : BusTxn} :
    busFault t = none ↔ t.size = 2 ∧ t.addr.toNat % 4 = 0 ∧ regionOf t.addr.toNat ≠ .unmapped := by
  simp only [busFault]
  split_ifs <;> simp_all

/-- What a transaction the bus lets through is: a command, a store or a read, each with the engine's part of the turn. -/
theorem busTurn_of_ok {t : BusTxn} {s : State} (h : busFault t = none) :
    busTurn t s = if t.wr then hostWrite t.addr.toNat t.wdata s else engineTurn (hostRead t.addr.toNat s) := by
  simp only [busTurn, h]

/-- A write a CTRL turn makes passes the bus and runs its command. -/
theorem busTurn_ctrl (v : Word) (s : State) :
    busTurn { wr := true, addr := 0, size := 2, wdata := v } s = exec (decodeCtrl v) s := by
  simp [busTurn, busFault, hostWrite, regionOf, regAt]

end Sys2Proof.Machine
end

