-- ==== Sys2Proof/Laws/Step.lean ====
section
/-! SUPPORT. Laws of the step and of a run: which turn a step takes, and a run as its first step and the rest. -/

namespace Sys2Proof.Machine

/-- A step takes the turn at the head of the schedule. -/
theorem step_of_schedule {s : State} {t : Turn} {rest : List Turn} (h : s.schedule = t :: rest) :
    step s = takeTurn t { s with schedule := rest, slot := t.engine } := by
  have hn : nextTurn s = t := by simp [nextTurn, h]
  have hb : beginTurn s = { s with schedule := rest, slot := t.engine } := by simp [beginTurn, hn, h]
  rw [step, hn, hb]

/-- Past the end of the schedule a step is the engine's part of a turn with a silent sink. -/
theorem step_of_nil {s : State} (h : s.schedule = []) : step s = engineTurn { s with slot := .go none } := by
  have hn : nextTurn s = idleTurn := by simp [nextTurn, h]
  have hb : beginTurn s = { s with slot := .go none } := by simp [beginTurn, hn, h, idleTurn]
  rw [step, hn, hb]
  rfl

@[simp] theorem andThen_next (s : State) (f : State → Answer) : andThen (.next s) f = f s := rfl

@[simp] theorem runSteps_zero (s : State) : runSteps 0 s = .next s := rfl

theorem runSteps_succ (k : Nat) (s : State) : runSteps (k + 1) s = andThen (step s) (runSteps k) := rfl

theorem runSteps_one (s : State) : runSteps 1 s = step s := by
  rw [runSteps_succ]
  unfold andThen
  cases step s <;> rfl

/-- `runSteps` is the host's run of this machine. -/
theorem runSteps_eq_run (k : Nat) (s : State) : runSteps k s = Sys2Proof.core.run k s := by
  induction k generalizing s with
  | zero => rfl
  | succ k ih =>
    have h : Sys2Proof.core.step s = step s := rfl
    simp only [Host.Core.run, h, runSteps_succ]
    unfold andThen
    cases step s with
    | next u => exact ih u
    | fault r => rfl
    | refused r => rfl

/-- The engine's turn always answers a next state: the defensive check never fails. -/
theorem engineTurn_next (s : State) : ∃ t, engineTurn s = .next t := by
  rcases engineTurn_cases s with h | ⟨c, sink, _, _, h⟩
  · exact ⟨_, h⟩
  · rw [h]
    rcases engineStep_cases Config.params c sink s with h | h | ⟨_, _, h⟩ | ⟨_, _, h⟩ | ⟨_, _, _, _, h⟩ <;>
      exact ⟨_, h⟩

/-! ### What a turn can do -/

/-- While BUSY every command is a dropped write (10_state.md R39). -/
theorem exec_busy {s : State} {c : Command} (i : Instr) (h : s.phase = .busy c) :
    exec i s = engineTurn (dropWrite s) := by
  cases i <;> exact congrArg engineTurn (whenIdle_busy _ h)

/-- In IDLE a command does nothing, reports ILLEGAL_CMD, or starts one of the three commands (10_state.md R31). -/
theorem exec_idle_cases {s : State} (v : Word) (h : s.phase = .idle) :
    exec (decodeCtrl v) s = engineTurn s ∨
    exec (decodeCtrl v) s = engineTurn (illegalCommand s) ∨
    ∃ c, cmdField v = cmdField (startWord c) ∧ exec (decodeCtrl v) s = engineTurn (start c s) := by
  unfold decodeCtrl
  split_ifs with h0 h1 h2 h3
  · exact .inl (congrArg engineTurn (whenIdle_idle _ h))
  · exact .inr (.inr ⟨.csum, h1, congrArg engineTurn (whenIdle_idle _ h)⟩)
  · exact .inr (.inr ⟨.build, h2, congrArg engineTurn (whenIdle_idle _ h)⟩)
  · exact .inr (.inr ⟨.send, h3, congrArg engineTurn (whenIdle_idle _ h)⟩)
  · exact .inr (.inl (congrArg engineTurn (whenIdle_idle _ h)))

/-- CTRL is at offset 0, so an aligned access to it is at offset 0 (10_state.md R22). -/
theorem ctrl_offset {a : Nat} (h : regionOf a = .reg .ctrl) (h4 : a % 4 = 0) : a = 0 := by
  simp only [regionOf] at h
  split_ifs at h with h1
  · obtain ⟨k, rfl⟩ : ∃ k, a = 4 * k := ⟨a / 4, by omega⟩
    have : k < 16 := by omega
    interval_cases k <;> first | rfl | (exfalso; revert h; decide)

/-- What the host's part of a turn `t`, no reset and no read of a WAIT that goes on, can leave before the engine's part. -/
abbrev HostPart (t : Turn) (s u : State) : Prop :=
  u = s ∨
  (∃ a, u = hostRead a s) ∨
  (∃ v, u = writeStatus v s) ∨
  (s.busy = true ∧ u = dropWrite s) ∨
  (s.phase = .idle ∧ u = illegalCommand s) ∨
  (s.phase = .idle ∧ ∃ c v, t.host = .bus { wr := true, addr := 0, size := 2, wdata := v } ∧
    cmdField v = cmdField (startWord c) ∧ u = start c s) ∨
  (s.phase = .idle ∧ ∃ r v, u = storeInput r v s) ∨
  (s.phase = .idle ∧ ∃ i v, i + 4 ≤ 65536 ∧ u = storeData i v s)

/-- A write the bus lets through is a host part, then the engine's part. -/
theorem hostWrite_cases {b : BusTxn} {slot : EngineSlot} (s : State) (hf : busFault b = none) (hw : b.wr = true) :
    ∃ u, hostWrite b.addr.toNat b.wdata s = engineTurn u ∧ HostPart ⟨.bus b, slot⟩ s u := by
  obtain ⟨h2, h4, -⟩ := busFault_eq_none.1 hf
  unfold hostWrite
  split
  · rename_i hc
    have ha := ctrl_offset hc h4
    have hb : b = { wr := true, addr := 0, size := 2, wdata := b.wdata } := by
      obtain ⟨wr, addr, size, wdata⟩ := b
      simp only at hw h2 ha ⊢
      rw [hw, h2, show addr = 0 from BitVec.eq_of_toNat_eq (by simpa using ha)]
    rcases hp : s.phase with _ | c
    · rcases exec_idle_cases b.wdata hp with e | e | ⟨c, hs, e⟩
      · exact ⟨_, e, .inl rfl⟩
      · exact ⟨_, e, .inr (.inr (.inr (.inr (.inl ⟨hp, rfl⟩))))⟩
      · exact ⟨_, e, .inr (.inr (.inr (.inr (.inr (.inl ⟨hp, c, b.wdata, congrArg _ hb, hs, rfl⟩)))))⟩
    · exact ⟨_, exec_busy _ hp, .inr (.inr (.inr (.inl ⟨busy_iff.2 ⟨c, hp⟩, rfl⟩)))⟩
  · refine ⟨_, rfl, ?_⟩
    rcases hostStore_cases (regionOf b.addr.toNat) b.wdata s with
      e | ⟨_, e⟩ | ⟨hc, e⟩ | ⟨hp, r, _, e⟩ | ⟨hp, i, hg, e⟩
    · exact .inl e
    · exact .inr (.inr (.inl ⟨_, e⟩))
    · exact .inr (.inr (.inr (.inl ⟨busy_iff.2 hc, e⟩)))
    · exact .inr (.inr (.inr (.inr (.inr (.inr (.inl ⟨hp, r, _, e⟩))))))
    · exact .inr (.inr (.inr (.inr (.inr (.inr (.inr ⟨hp, i, _, data_index_bound hg h4, e⟩))))))

/-- Everything a turn can answer: a bus error, a reset, or what the engine's part leaves after a read of a WAIT that goes on or after
another host part. -/
theorem takeTurn_cases (t : Turn) (s : State) :
    (∃ b f, t.host = .bus b ∧ busFault b = some f ∧ takeTurn t s = .fault f) ∨
    (∃ cut, t.host = .reset cut ∧ takeTurn t s = .next (resetWith Config.params cut s)) ∨
    (∃ later, t.host = .wait later ∧ s.busy = true ∧
      takeTurn t s = engineTurn { hostRead 0x04 s with schedule := nextWait later :: s.schedule }) ∨
    ((s.busy = true → ∀ later, t.host ≠ .wait later) ∧ t.isReset = false ∧
      ∃ u, takeTurn t s = engineTurn u ∧ HostPart t s u) := by
  obtain ⟨host, slot⟩ := t
  cases host with
  | quiet => exact .inr (.inr (.inr ⟨(fun _ _ h => by cases h), rfl, s, rfl, .inl rfl⟩))
  | reset cut => exact .inr (.inl ⟨cut, rfl, rfl⟩)
  | wait later =>
    cases hb : s.busy with
    | true =>
      refine .inr (.inr (.inl ⟨later, rfl, rfl, ?_⟩))
      simp only [takeTurn, waitTurn, hb, if_true]
    | false =>
      refine .inr (.inr (.inr ⟨(fun h => by cases h), rfl, hostRead 0x04 s, ?_, .inr (.inl ⟨_, rfl⟩)⟩))
      simp only [takeTurn, waitTurn, hb, Bool.false_eq_true, if_false]
  | bus b =>
    cases hf : busFault b with
    | some f => exact .inl ⟨b, f, rfl, hf, by simp only [takeTurn, busTurn, hf]⟩
    | none =>
      refine .inr (.inr (.inr ⟨(fun _ _ h => by cases h), rfl, ?_⟩))
      have e : takeTurn ⟨.bus b, slot⟩ s = busTurn b s := rfl
      rw [e, busTurn_of_ok hf]
      split
      · exact hostWrite_cases s hf ‹_›
      · exact ⟨_, rfl, .inr (.inl ⟨_, rfl⟩)⟩

/-- Everything a turn that answers a next state can leave. -/
theorem takeTurn_next_cases {t : Turn} {s s' : State} (h : takeTurn t s = .next s') :
    (∃ cut, t.host = .reset cut ∧ s' = resetWith Config.params cut s) ∨
    ∃ u, engineTurn u = .next s' ∧
      ((s.busy = true ∧ ∃ later, u = { hostRead 0x04 s with schedule := nextWait later :: s.schedule }) ∨
       HostPart t s u) := by
  rcases takeTurn_cases t s with ⟨_, _, _, _, e⟩ | ⟨cut, hc, e⟩ | ⟨later, _, hb, e⟩ | ⟨_, _, u, e, hu⟩ <;> rw [e] at h
  · cases h
  · exact .inl ⟨cut, hc, (Host.Outcome.next.inj h).symm⟩
  · exact .inr ⟨_, h, .inl ⟨hb, later, rfl⟩⟩
  · exact .inr ⟨u, h, .inr hu⟩

/-- What stands in the schedule after a turn that leaves the machine BUSY: a WAIT goes on, any other turn is over. -/
def restAfter (t : Turn) (rest : List Turn) : List Turn :=
  match t.host with
  | .wait later => nextWait later :: rest
  | .quiet => rest
  | .bus _ => rest
  | .reset _ => rest

/-- While BUSY a turn is a bus error, a reset, or the engine's part after a host part that changes no input, no result, no buffer and not
the command in progress (10_state.md R39). -/
theorem takeTurn_busy {t : Turn} {s : State} {c : Command} (h : s.phase = .busy c) :
    (∃ b f, t.host = .bus b ∧ busFault b = some f ∧ takeTurn t s = .fault f) ∨
    (∃ cut, t.host = .reset cut ∧ takeTurn t s = .next (resetWith Config.params cut s)) ∨
    t.isReset = false ∧ ∃ d e g r n, takeTurn t s
      = engineTurn { s with
          done := d, err := e, ign := g, rdata := r, draws := n, schedule := restAfter t s.schedule } := by
  have hb : s.busy = true := busy_iff.2 ⟨c, h⟩
  have hi : ∀ {P : Prop}, s.phase = .idle → P := fun h' => by rw [h] at h'; cases h'
  rcases takeTurn_cases t s with hf | hr | ⟨later, ht, _, e⟩ | ⟨hw, hr, u, e, hu⟩
  · exact .inl hf
  · exact .inr (.inl hr)
  · refine .inr (.inr ⟨by simp only [Turn.isReset, ht], s.done, s.err, s.ign, readValue 0x04 s, s.draws + 4, ?_⟩)
    rw [e, restAfter, ht, hostRead]
  · have hq : restAfter t s.schedule = s.schedule := by
      unfold restAfter
      split
      · exact absurd ‹_› (hw hb _)
      all_goals rfl
    refine .inr (.inr ⟨hr, ?_⟩)
    rw [hq]
    rcases hu with rfl | ⟨a, rfl⟩ | ⟨v, rfl⟩ | ⟨_, rfl⟩ | ⟨h', _⟩ | ⟨h', _⟩ | ⟨h', _⟩ | ⟨h', _⟩
    · exact ⟨u.done, u.err, u.ign, u.rdata, u.draws, e⟩
    · exact ⟨s.done, s.err, s.ign, _, _, e⟩
    · rw [writeStatus_eq] at e
      exact ⟨_, _, _, s.rdata, s.draws, e⟩
    · exact ⟨s.done, s.err, _, s.rdata, s.draws, e⟩
    all_goals exact hi h'

/-- Everything the engine's turn can leave. -/
theorem engineTurn_next_cases {s t : State} (h : engineTurn s = .next t) :
    t = s ∨
    (∃ c, s.phase = .busy c) ∧
    (t = finish .invalidInput s ∨
     t = finish .ok (useDraws (spanLength s) (writeChecksum (csum (spanBytes s)) s)) ∨
     (payloadTooLong s = false ∧
       ((s.phase = .busy .build ∧ t = finish .ok (useDraws (payloadLength s) (writeResults (operands s) s))) ∨
        (s.phase = .busy .send ∧ ∃ code, t = finish (responseOf code).errCode
          (logSend (txRecord s (frameOf (operands s)) (responseOf code))
            (useDraws (payloadLength s) (writeResults (operands s) s))))))) := by
  rcases engineTurn_cases s with e | ⟨c, sink, hp, hs, e⟩
  · rw [e] at h; exact .inl (by simpa using h.symm)
  · rw [e] at h
    rcases engineStep_cases Config.params c sink s with e | e | ⟨_, _, e⟩ | ⟨hc, hl, e⟩ | ⟨hc, hl, code, _, e⟩ <;>
      rw [e] at h <;> injection h with h
    · exact .inl h.symm
    · exact .inr ⟨⟨c, hp⟩, .inl h.symm⟩
    · exact .inr ⟨⟨c, hp⟩, .inr (.inl h.symm)⟩
    · subst hc; exact .inr ⟨⟨_, hp⟩, .inr (.inr ⟨hl, .inl ⟨hp, h.symm⟩⟩)⟩
    · subst hc; exact .inr ⟨⟨_, hp⟩, .inr (.inr ⟨hl, .inr ⟨hp, code, h.symm⟩⟩)⟩

end Sys2Proof.Machine
end

