-- ==== Sys2Proof/Laws/Invariant.lean ====
section
/-! SUPPORT. Laws of the invariant: what writing the results of a legal BUILD or SEND and ending a command give it. -/

namespace Sys2Proof.Machine

/-- L of the operands is PAYLOAD_LEN. -/
theorem operands_len (s : State) : (operands s).len = s.payloadLen.toNat := by
  simp [operands, operandsWith, Operands.len, payloadBytes, payloadLength]

/-- Past the length check the operands are legal. -/
theorem operands_legal {s : State} (h : payloadTooLong s = false) : (operands s).Legal := by
  simp [payloadTooLong, payloadLength] at h
  unfold Operands.Legal; rw [operands_len]; exact h

/-- The results written are the frame. -/
theorem writeResults_frameIs (x : Operands) (s : State) (h : x.Legal) : (writeResults x s).frameIs (frameOf x) := by
  have hx : x.len ≤ 65495 := h
  refine ⟨?_, fun j hj => ?_⟩
  · rw [frame_length]; simp only [writeResults_frameLen, BitVec.toNat_ofNat]; omega
  · have := get?_setBytes_inside (m := s.frame) (a := 0) hj
    simpa using this

/-- Writing the results keeps the frame part of the invariant. -/
theorem writeResults_inv {s : State} (x : Operands) (h : s.Inv) (hl : x.Legal) :
    Memory.wf (writeResults x s).frame ∧ (writeResults x s).FrameOk := by
  have hx : x.len ≤ 65495 := hl
  refine ⟨?_, ?_⟩
  · have hw := wf_setBytes (bs := frameOf x) (a := 0) h.frame_wf (by rw [frame_length]; omega)
    rw [writeResults_frame]; exact hw
  · right; exact ⟨x, hl, writeResults_frameIs x s hl, writeResults_ipCsum .., writeResults_tcpCsum ..⟩

/-- Ending a command gives the invariant where its buffers, its frame and its log are as it asks. -/
theorem finish_inv {s : State} (e : ErrCode) (h1 : Memory.wf s.data) (h2 : Memory.wf s.frame) (h3 : s.FrameOk)
    (h4 : ∀ r ∈ s.txLog, r.Ok) : (finish e s).Inv :=
  ⟨h1, h2, (by intro h; cases h), (by intro h; cases h), h3, h4⟩

theorem frameOk_useDraws {s : State} {n : Nat} (h : s.FrameOk) : (useDraws n s).FrameOk := h

theorem frameOk_logSend {s : State} {r : TxRecord} (h : s.FrameOk) : (logSend r s).FrameOk := h

end Sys2Proof.Machine
end

