-- ==== Sys2Proof/Laws/PerInstr.lean ====
section
/-! SUPPORT. Per-command families: what holds of each constructor of `Instr` as syntax. -/

namespace Sys2Proof

/-- The two fields of a word read back what it was put together from. -/
theorem cmdField_append (ign : BitVec 29) (cmd : BitVec 3) : cmdField (ign ++ cmd) = cmd := by
  apply BitVec.eq_of_getLsbD_eq
  intro i hi
  simp only [cmdField, BitVec.getLsbD_extractLsb', BitVec.getLsbD_append, Nat.zero_add, hi, decide_true,
    Bool.true_and, if_true]

theorem ignField_append (ign : BitVec 29) (cmd : BitVec 3) : ignField (ign ++ cmd) = ign := by
  apply BitVec.eq_of_getLsbD_eq
  intro i hi
  simp only [ignField, BitVec.getLsbD_extractLsb', BitVec.getLsbD_append, hi, decide_true, Bool.true_and]
  rw [if_neg (by omega)]
  congr 1
  omega

namespace Laws.CommandWord

/-- The fields of a command's word (30_encoding.md R70): CMD in bits [2:0] and the ignored bits in [31:3], each as the command has it. -/
def Statement (i : Instr) : Prop := cmdField (encode i) = i.cmd ∧ ignField (encode i) = i.ign

theorem nop (ign : BitVec 29) : Statement (.nop ign) := ⟨cmdField_append _ _, ignField_append _ _⟩

theorem csum (ign : BitVec 29) : Statement (.csum ign) := ⟨cmdField_append _ _, ignField_append _ _⟩

theorem build (ign : BitVec 29) : Statement (.build ign) := ⟨cmdField_append _ _, ignField_append _ _⟩

theorem send (ign : BitVec 29) : Statement (.send ign) := ⟨cmdField_append _ _, ignField_append _ _⟩

theorem reserved (cmd : BitVec 3) (ign : BitVec 29) : Statement (.reserved cmd ign) :=
  ⟨cmdField_append _ _, ignField_append _ _⟩

end Laws.CommandWord

end Sys2Proof
end

