-- ==== Sys2Proof/Tests/Slice0.lean ====
section
/-! SUPPORT. The model's own tests, from the vectors of spec/95_test_vectors.md, and one witness for each obligation with hypotheses. -/

namespace Sys2Proof.Tests

open Sys2Proof Sys2Proof.Machine

/-! ### Helpers -/

/-- The next state of an answer, if it is one. -/
def nextOf : Answer → Option State
  | .next s => some s
  | .fault _ => none
  | .refused _ => none

/-- The fault of an answer, if it is one. -/
def faultOf : Answer → Option Fault
  | .next _ => none
  | .fault f => some f
  | .refused _ => none

/-- The parameters most vectors use (95_test_vectors.md). -/
def zeroParams : Params := ⟨0, 0⟩

/-- The parameters of V-F5. -/
def otherParams : Params := ⟨0x1234, 0x2000⟩

/-- A state with the inputs of property 6: 10.0.0.1:12345 to 10.0.0.2:80, sequence 0x1000, SYN (95_test_vectors.md). -/
def synState : State :=
  { State.reset with srcAddr := 0x0A000001, dstAddr := 0x0A000002, srcPort := 12345, dstPort := 80, seq := 0x1000, flags := 2 }

/-- The same with the payload "Hi!" (V-F3). -/
def hiState : State :=
  { synState with payloadLen := 3, data := Memory.setBytes [] 0 [0x48, 0x69, 0x21, 0x00] }

/-- A state with the inputs of V-F7. -/
def synAckState : State :=
  { State.reset with
    srcAddr := 0xC0A80001, dstAddr := 0xC0A800C7, srcPort := 80, dstPort := 12345, seq := 0xDEADBEEF, ack := 0x1001,
    flags := 0x12 }

/-- A CSUM over bytes B to B+N-1 of a data buffer holding `bytes` from index `at0` on. -/
def csumState (at0 : Nat) (bytes : List Byte) (B N : Word) : State :=
  { State.reset with data := Memory.setBytes [] at0 bytes, csumBase := B, csumLen := N, slot := .go none }

/-- A state BUSY on a command. -/
def busyState (c : Command) (slot : EngineSlot) : State := { synState with phase := .busy c, slot := slot }

/-- The operands of V-F1. -/
def synOperands : Operands := operandsWith zeroParams synState

/-- Operands with the longest payload. -/
def longOperands : Operands := { synOperands with pay := List.replicate 65495 0 }

/-- A state after a BUILD of V-F1. -/
def builtState : State := finish .ok (writeResults synOperands synState)

/-- A state after a BUILD of V-F3. -/
def builtHiState : State := finish .ok (writeResults (operandsWith zeroParams hiState) hiState)

/-- The inputs of `hiState` in another state. -/
def hiAgainState : State :=
  { builtState with payloadLen := 3, data := Memory.setBytes [] 0 [0x48, 0x69, 0x21, 0x99], ign := true }

/-- `builtState` with one record in TxLog. -/
def sentState : State := logSend (txRecord synState (frameOf synOperands) .accepted) builtState

/-! ### Well-formedness (spec/opcode_table.json) -/

theorem test_wellFormed_refuses_reserved_below_four :
    Instr.wellFormed (.reserved 0 0) = false ∧ Instr.wellFormed (.reserved 1 0) = false ∧
    Instr.wellFormed (.reserved 2 5) = false ∧ Instr.wellFormed (.reserved 3 0) = false := by decide

theorem test_wellFormed_accepts :
    Instr.wellFormed (.nop 0) = true ∧ Instr.wellFormed (.csum 1) = true ∧ Instr.wellFormed (.build 2) = true ∧
    Instr.wellFormed (.send 3) = true ∧ Instr.wellFormed (.reserved 4 0) = true ∧
    Instr.wellFormed (.reserved 7 0x1FFFFFFF) = true := by decide

/-! ### Decoding words written out from 30_encoding.md R70 -/

theorem test_decode_nop : decodeCtrl 0b00000000000000000000000000000000 = .nop 0 := by decide

theorem test_decode_csum :
    decodeCtrl 0b00000000000000000000000000000001 = .csum 0 ∧
    decodeCtrl 0b00000000000000000000000000001001 = .csum 1 := by decide

theorem test_decode_build : decodeCtrl 0b10000000000000000000000000000010 = .build 0x10000000 := by decide

theorem test_decode_send :
    decodeCtrl 0b00000000000000000000000000000011 = .send 0 ∧
    decodeCtrl 0b11111111111111111111111111111011 = .send 0x1FFFFFFF := by decide

theorem test_decode_reserved :
    decodeCtrl 0b00000000000000000000000000000100 = .reserved 4 0 ∧
    decodeCtrl 0b00000000000000000000000000000101 = .reserved 5 0 ∧
    decodeCtrl 0b00000000000000000000000000000110 = .reserved 6 0 ∧
    decodeCtrl 0b00000000000000000000000000001111 = .reserved 7 1 := by decide

theorem test_decodeTableWord :
    decodeTableWord 32 0 = some (.nop 0) ∧ decodeTableWord 32 1 = some (.csum 0) ∧
    decodeTableWord 32 2 = some (.build 0) ∧ decodeTableWord 32 3 = some (.send 0) ∧
    decodeTableWord 32 4 = some (.reserved 4 0) ∧ decodeTableWord 40 4 = none := by decide

theorem test_step_runs_each_placed_word :
    ((nextOf (step (State.reset.withFetchWord 32 0))).map fun s => (s.busy, s.done, s.err)) = some (false, false, .ok) ∧
    ((nextOf (step (State.reset.withFetchWord 32 1))).map fun s => (s.busy, s.done, s.err)) = some (false, true, .ok) ∧
    ((nextOf (step (State.reset.withFetchWord 32 2))).map fun s => (s.busy, s.done, s.frameLen)) = some (false, true, 40) ∧
    ((nextOf (step (State.reset.withFetchWord 32 3))).map fun s => (s.busy, s.done, s.frameLen)) = some (false, true, 40) ∧
    ((nextOf (step (State.reset.withFetchWord 32 4))).map fun s => (s.busy, s.done, s.err))
      = some (false, true, .illegalCmd) := by decide

/-! ### The Checksum Engine (95_test_vectors.md 2.1) -/

/-- V-C13 and V-C15. -/
theorem test_csum_vectors :
    csum [0x41, 0x42, 0x43] = 0x7BBD ∧ wordSum [0x00, 0x01, 0xF2, 0x03, 0xF4, 0xF5, 0xF6, 0xF7] = 0x2DDF0 ∧
    csum [0x00, 0x01, 0xF2, 0x03, 0xF4, 0xF5, 0xF6, 0xF7] = 0x220D := by decide

/-- V-C16. -/
theorem test_csum_ipv4_header :
    csum [0x45, 0x00, 0x00, 0x73, 0x00, 0x00, 0x40, 0x00, 0x40, 0x11, 0x00, 0x00, 0xC0, 0xA8, 0x00, 0x01,
      0xC0, 0xA8, 0x00, 0xC7] = 0xB861 := by decide

/-- V-C10, V-C11, V-C21: end-around carry, and a field at an even offset of a span of odd length. -/
theorem test_csum_carries :
    csum [0xFF, 0xFF, 0xFF, 0xFF] = 0x0000 ∧ csum [0x00, 0x01, 0xFF, 0xFF] = 0xFFFE ∧
    csum [0x01, 0x02, 0x00, 0x00, 0x03] = 0xFBFD ∧ csum [0x01, 0x02, 0xFB, 0xFD, 0x03] = 0x0000 := by decide

/-- V-C15 by the adder form (40_checksum.md R110). -/
theorem test_adder : adderCsum [0x00, 0x01, 0xF2, 0x03, 0xF4, 0xF5, 0xF6, 0xF7] = 0x220D := by decide

/-! ### CSUM -/

/-- V-C23: an odd base and an odd length. -/
theorem test_csum_odd_span :
    ((nextOf (exec (.csum 0) (csumState 1 [0xAB, 0xCD, 0xEF] 1 3))).map fun s => (s.csumResult, statusWord s))
      = some (0x6531, 0x00000002) := by decide

/-- V-C26 and V-C29: B = 65536 is legal with N = 0, and B + N does not wrap around. -/
theorem test_csum_span_check :
    ((nextOf (exec (.csum 0) (csumState 0 [] 65536 0))).map fun s => (s.csumResult, statusWord s))
      = some (0xFFFF, 0x00000002) ∧
    ((nextOf (exec (.csum 0) (csumState 0 [] 0xFFFFFFFF 1))).map fun s => (s.csumResult, statusWord s))
      = some (0x0000, 0x00000012) := by decide

/-! ### BUILD and SEND -/

/-- V-F1. -/
theorem test_frame_syn :
    frameOf synOperands
      = [0x45, 0x00, 0x00, 0x28, 0x00, 0x00, 0x00, 0x00, 0x40, 0x06, 0x66, 0xCE, 0x0A, 0x00, 0x00, 0x01,
         0x0A, 0x00, 0x00, 0x02, 0x30, 0x39, 0x00, 0x50, 0x00, 0x00, 0x10, 0x00, 0x00, 0x00, 0x00, 0x00,
         0x50, 0x02, 0x00, 0x00, 0x5B, 0x57, 0x00, 0x00] := by decide

/-- V-P2: the pseudo-header with L = 3. -/
theorem test_pseudo_header :
    pseudoHdr (ipHdrZero (operandsWith zeroParams hiState)) 3
      = [0x0A, 0x00, 0x00, 0x01, 0x0A, 0x00, 0x00, 0x02, 0x00, 0x06, 0x00, 0x17] := by decide

/-- V-F3, and V-F6 with the other parameters. -/
theorem test_build_hi :
    ((nextOf (runBuildWith zeroParams hiState)).map fun s => (s.ipCsum, s.tcpCsum, s.frameLen, statusWord s))
      = some (0x66CB, 0xF1EA, 43, 0x00000002) ∧
    ((nextOf (runBuildWith otherParams hiState)).map fun s => (s.ipCsum, s.tcpCsum, s.frameLen, statusWord s))
      = some (0x5497, 0xD1EA, 43, 0x00000002) := by decide

/-- V-F10: the length check, and nothing built. -/
theorem test_build_too_long :
    ((nextOf (exec (.build 0) { synState with payloadLen := 65496, slot := .go none })).map fun s =>
      (s.frame, s.frameLen, statusWord s)) = some ([], 0, 0x00000012) := by decide

/-- V-F7 and P4: a SEND whose sink answers REJECTED. -/
theorem test_send_rejected :
    ((nextOf (runSendWith zeroParams (some 2) synAckState)).map fun s => (s.ipCsum, s.tcpCsum, statusWord s))
      = some (0xF8B7, 0x4F92, 0x00000032) ∧
    ((nextOf (runSendWith zeroParams (some 2) synAckState)).map fun s =>
      s.txLog.map fun r => (r.dstAddr, r.dstPort, r.frame.length, r.response))
      = some [(0xC0A800C7, 12345, 40, .rejected)] := by decide

/-- P1 and P5: a silent sink leaves STATUS at BUSY and TxLog empty; the step after it with an answer ends the SEND. -/
theorem test_send_waits_for_the_sink :
    ((nextOf (exec (.send 0) { synState with slot := .go none })).map fun s => (statusWord s, s.txLog))
      = some (0x00000001, []) ∧
    ((nextOf (runSendWith zeroParams (some 0) (busyState .send (.go (some 0))))).map fun s =>
      (statusWord s, s.txLog.map fun r => (r.dstAddr, r.dstPort, r.response)))
      = some (0x00000002, [(0x0A000002, 80, .accepted)]) := by decide

/-! ### NOP and the reserved commands -/

/-- V-R7. -/
theorem test_nop_keeps_status :
    ((nextOf (exec (.nop 0) { State.reset with done := true, err := .invalidInput })).map statusWord)
      = some 0x00000012 := by decide

/-- V-R8. -/
theorem test_reserved_in_idle :
    ((nextOf (exec (.reserved 4 0) State.reset)).map fun s => (statusWord s, s.phase)) = some (0x00000042, .idle) := by
  decide

/-- V-R16. -/
theorem test_reserved_while_busy :
    ((nextOf (exec (.reserved 7 0) (busyState .csum .hold))).map statusWord) = some 0x00000005 := by decide

/-! ### Registers and the bus -/

/-- V-R2 and V-R3. -/
theorem test_register_masks :
    ((nextOf (hostWrite 0x10 0x12345678 State.reset)).map (readValue 0x10)) = some 0x00005678 ∧
    ((nextOf (hostWrite 0x20 0xFFFFFFFF State.reset)).map (readValue 0x20)) = some 0x0000003F := by decide

/-- V-R10 to V-R13. -/
theorem test_status_writes :
    statusWord (writeStatus 0x2 { State.reset with done := true, err := .illegalCmd }) = 0x00000000 ∧
    statusWord (writeStatus 0x2 { State.reset with done := true, ign := true }) = 0x00000004 ∧
    statusWord (writeStatus 0x4 { State.reset with done := true, ign := true }) = 0x00000002 ∧
    statusWord (writeStatus 0x1 { State.reset with done := true, err := .invalidInput }) = 0x00000012 := by decide

/-- V-R15, V-R17 and V-R18. -/
theorem test_writes_while_busy :
    ((nextOf (hostWrite 0x2C 5 (busyState .build .hold))).map fun s => (s.csumLen, s.ign)) = some (0, true) ∧
    ((nextOf (hostWrite 0x10000 1 (busyState .build .hold))).map fun s => (s.data, s.ign)) = some ([], true) ∧
    ((nextOf (hostWrite 0x04 0x4 { busyState .build .hold with ign := true })).map fun s => s.ign) = some false := by
  decide

/-- A read of a WAIT while BUSY (30_encoding.md R78): the value read has BUSY = 1 and the WAIT goes on, the engine scheduled once no slot
is given (70_reset_and_hazards.md R196). -/
theorem test_wait_goes_on :
    ((nextOf (step { busyState .csum .hold with schedule := [⟨.wait [], .hold⟩] })).map fun s => (s.rdata, s.schedule))
      = some (0x00000001, [⟨.wait [], .go none⟩]) ∧
    ((nextOf (step { busyState .csum .hold with schedule := [⟨.wait [], .go none⟩] })).map fun s => (s.phase, s.done))
      = some (.idle, true) := by decide

/-- V-B1. -/
theorem test_data_window :
    ((nextOf (hostWrite 0x10000 0x48692100 State.reset)).map fun s => (s.data, readValue 0x10000 s))
      = some ([(0, 0x48), (1, 0x69), (2, 0x21), (3, 0x00)], 0x48692100) := by decide

/-- V-B2. -/
theorem test_frame_window :
    readValue 0x20000 builtState = 0x45000028 ∧ readValue 0x20008 builtState = 0x400666CE ∧
    readValue 0x20024 builtState = 0x5B570000 := by decide

/-- V-B4 to V-B7. -/
theorem test_bus_errors :
    faultOf (busTurn ⟨false, 0x40, 2, 0⟩ State.reset) = some .busUnmapped ∧
    faultOf (busTurn ⟨false, 0x06, 2, 0⟩ State.reset) = some .busMisaligned ∧
    faultOf (busTurn ⟨false, 0x08, 0, 0⟩ State.reset) = some .busSize ∧
    faultOf (busTurn ⟨false, 0x08, 1, 0⟩ State.reset) = some .busSize ∧
    faultOf (busTurn ⟨true, 0x30000, 2, 1⟩ State.reset) = some .busUnmapped := by decide

/-- V-B8, with the last four bytes written. -/
theorem test_last_data_word :
    readValue 0x1FFFC { State.reset with data := Memory.setBytes [] 65532 [0x01, 0x02, 0x03, 0x04] } = 0x01020304 := by
  decide

/-- V-X1 to V-X3: a reset, and one that abandons a SEND of which the sink took 20 bytes. -/
theorem test_reset :
    resetWith zeroParams none { builtState with done := true } = State.reset ∧
    resetWith zeroParams (some (20, 1)) { busyState .csum .hold with csumResult := 5 } = State.reset ∧
    ((resetWith zeroParams (some (20, 1)) (busyState .send .hold)).txLog.map fun r =>
      (r.dstAddr, r.dstPort, r.frame, r.response))
      = [(0x0A000002, 80, (frameOf synOperands).take 20, .unavailable)] := by decide

/-- P5: the frame of a SEND started from reset. -/
theorem test_frame_from_reset :
    ipChecksum (operandsWith zeroParams State.reset) = 0x7AD1 ∧
    tcpChecksum (operandsWith zeroParams State.reset) = 0xAFE5 := by decide

/-! ### Witnesses: concrete states and operands that meet the hypotheses of each obligation, at the bounds of its clauses -/

theorem witness_DecodeOfEncodeIsIdentity :
    (Instr.nop 0).WellFormed ∧ (Instr.csum 0x1FFFFFFF).WellFormed ∧ (Instr.build 1).WellFormed ∧
    (Instr.send 2).WellFormed ∧ (Instr.reserved 4 0).WellFormed ∧ (Instr.reserved 7 0x1FFFFFFF).WellFormed := by decide

theorem witness_EveryWordIsTheCommandOfItsTableRow :
    ((Instr.send 0).WellFormed ∧ (0xFFFFFFFB : Word) &&& tableMask (.send 0) = tableMatch (.send 0)) ∧
    ((Instr.reserved 4 0).WellFormed ∧
      (0x0000000F : Word) &&& tableMask (.reserved 4 0) = tableMatch (.reserved 4 0)) := by decide

theorem witness_ReservedBitsNeverChangeTheCommand :
    cmdField 0x00000001 = cmdField 0x00000009 ∧ cmdField 0x00000004 = cmdField 0xFFFFFFFC := by decide

theorem witness_StepRunsTheDecodedCommand :
    ({ State.reset with schedule := [ctrlTurn 3 (.go none)] } : State).schedule = ctrlTurn 3 (.go none) :: [] ∧
    0 < 2 ^ 32 ∧ 0xFFFFFFFF < 2 ^ 32 := by decide

theorem witness_QuietTurnIsTheEngineAlone :
    ({ State.reset with schedule := [quietTurn .hold] } : State).schedule = quietTurn .hold :: [] ∧
    (busyState .csum .hold).schedule = [] ∧ synState.phase = .idle ∧
    ({ State.reset with schedule := [⟨.bus ⟨true, 0x3C, 2, 0⟩, .hold⟩] } : State).schedule
      = ⟨.bus ⟨true, 0x3C, 2, 0⟩, .hold⟩ :: [] ∧
    (busFault ⟨true, 0x00, 2, 3⟩ = none ∧ (⟨true, 0x00, 2, 3⟩ : BusTxn).wr = true) ∧
    (busFault ⟨false, 0x2FFFC, 2, 0⟩ = none ∧ (⟨false, 0x2FFFC, 2, 0⟩ : BusTxn).wr = false) := by decide

theorem witness_NopLeavesTheStateUnchanged :
    synState.phase = .idle ∧ (busyState .send .hold).phase = .busy .send ∧ (busyState .send .hold).slot = .hold := by
  decide

theorem witness_ReservedCommandReportsIllegalCmd :
    4 ≤ (cmdField 0x00000004).toNat ∧ 4 ≤ (cmdField 0xFFFFFFFF).toNat ∧ builtState.phase = .idle ∧ (busyState .csum .hold).phase = .busy .csum ∧ (busyState .csum .hold).slot = .hold := by
  decide

theorem witness_StartLatchesTheCommand : builtState.phase = .idle ∧ builtState.slot = .hold := by decide

/-- The span [65533, 65536) with its three bytes written, and B + N = 65537. -/
theorem witness_CsumWritesTheSpanChecksum :
    (csumState 65533 [1, 2, 3] 65533 3).phase = .idle ∧ (csumState 65533 [1, 2, 3] 65533 3).slot = .go none ∧
    (csumState 65533 [1, 2, 3] 65533 3).csumBase.toNat + (csumState 65533 [1, 2, 3] 65533 3).csumLen.toNat = 65536 ∧
    (∀ k, k < [(1 : Byte), 2, 3].length →
      Memory.get? (csumState 65533 [1, 2, 3] 65533 3).data (65533 + k) = [(1 : Byte), 2, 3][k]?) ∧
    (csumState 0 [] 65535 2).csumBase.toNat + (csumState 0 [] 65535 2).csumLen.toNat = 65537 := by decide

/-- A written and an unwritten byte of a span and of a payload, and both lengths zero. -/
theorem witness_OperandsAreRegistersAndDataBytes :
    0 < (csumState 1 [0xAB] 1 2).csumLen.toNat ∧ Memory.get? (csumState 1 [0xAB] 1 2).data (1 + 0) = some 0xAB ∧
    1 < (csumState 1 [0xAB] 1 2).csumLen.toNat ∧ Memory.get? (csumState 1 [0xAB] 1 2).data (1 + 1) = none ∧
    2 < hiState.payloadLen.toNat ∧ Memory.get? hiState.data 2 = some 0x21 ∧
    0 < ({ synState with payloadLen := 1 } : State).payloadLen.toNat ∧ Memory.get? synState.data 0 = none ∧
    synState.csumLen = 0 ∧ synState.payloadLen = 0 := by decide

theorem witness_BuildWritesTheFrame :
    ({ hiState with slot := .go none } : State).phase = .idle ∧ ({ hiState with slot := .go none } : State).slot = .go none ∧
    ({ synState with payloadLen := 65495 } : State).payloadLen.toNat ≤ 65495 ∧
    65495 < ({ synState with payloadLen := 65496 } : State).payloadLen.toNat := by decide

theorem witness_SendTransmitsTheFrameOnce :
    ({ hiState with slot := .go (some 3) } : State).phase = .idle ∧
    ({ hiState with slot := .go (some 3) } : State).slot = .go (some 3) ∧
    ({ hiState with slot := .go none } : State).slot = .go none ∧
    ({ synState with payloadLen := 65495 } : State).payloadLen.toNat ≤ 65495 ∧
    65495 < ({ synState with payloadLen := 65496 } : State).payloadLen.toNat := by decide

/-- A state on which both a BUILD and a SEND answer a next state. -/
theorem witness_SendIsBuildPlusTheSink :
    ∃ s t u : State, s.phase = .idle ∧ s.slot = .go (some 0) ∧ exec (.build 0) s = .next t ∧
      exec (.send 0) s = .next u := by
  obtain ⟨t, ht⟩ := engineTurn_next (whenIdle (start .build) { hiState with slot := .go (some 0) })
  obtain ⟨u, hu⟩ := engineTurn_next (whenIdle (start .send) { hiState with slot := .go (some 0) })
  exact ⟨{ hiState with slot := .go (some 0) }, t, u, rfl, rfl, ht, hu⟩

theorem witness_DelayedEngineStepGivesTheSameState : hiState.phase = .idle := by decide

/-- An engine step that answers a next state, and a command that does. -/
theorem witness_IgnDoesNotDisturbTheCommand :
    (∃ t, engineTurn (busyState .csum (.go none)) = .next t ∧ t.phase = .idle) ∧
    (∃ t, synState.phase = .idle ∧ exec (.reserved 5 0) synState = .next t) :=
  ⟨⟨_, (engineTurn_go (c := .csum) (sink := none) rfl rfl).trans (runCsum_of_fits rfl), rfl⟩, ⟨illegalCommand synState, rfl, rfl⟩⟩

theorem witness_ChecksumHasAClosedForm :
    [((1 : Byte), (2 : Byte)), (3, 4)].Perm [(3, 4), (1, 2)] ∧ 0 < wordSum [0x00, 0x01] := by decide

theorem witness_TwoFoldsAreEnough :
    0xFFFFFFFF < 2 ^ 32 ∧ 2 ≤ 2 ∧ (List.replicate 65536 (0xFF : Byte)).length ≤ 65536 :=
  ⟨by decide, Nat.le_refl 2, Nat.le_of_eq (List.length_replicate ..)⟩

theorem witness_longOperands_Legal : longOperands.Legal ∧ longOperands.len = 65495 := by
  have h : longOperands.len = 65495 := List.length_replicate ..
  exact ⟨Nat.le_of_eq h, h⟩

theorem witness_AccumulatorNeverOverflows :
    (List.replicate 65536 (0xFF : Byte)).length ≤ 65536 ∧ longOperands.Legal :=
  ⟨Nat.le_of_eq (List.length_replicate ..), witness_longOperands_Legal.1⟩

theorem witness_OddTrailingByteIsHighOrder : [(0x01 : Byte), 0x02].length % 2 = 0 := by decide

/-- V-I5 and V-T5: headers whose checksums are 0x0000. -/
theorem witness_ZeroChecksumIsKept :
    csum (ipHdrZero { synOperands with dst := 0x0A0066D0 }) = 0 ∧
    csum (checksumInput { synOperands with seq := 0x00006B57 }) = 0 ∧ spanTooLong (csumState 0 [] 65536 0) = false := by
  decide

/-- V-C21: an even offset in a span of odd length. -/
theorem witness_VerificationLaw :
    [(0x01 : Byte), 0x02].length % 2 = 0 ∧ csum ([0x01, 0x02] ++ [0x00, 0x00] ++ [0x03]) = 0xFBFD := by decide

theorem witness_LengthFieldsNeverWrap : longOperands.Legal ∧ synOperands.Legal :=
  ⟨witness_longOperands_Legal.1, Nat.zero_le _⟩

theorem witness_FrameLengthIsItsTotalLengthField : longOperands.Legal ∧ synOperands.Legal :=
  witness_LengthFieldsNeverWrap

theorem witness_IpHeaderDecodesBack : synOperands.Legal ∧ ∃ h : List Byte, h = (frameOf synOperands).take 20 :=
  ⟨Nat.zero_le _, _, rfl⟩

theorem witness_TcpHeaderDecodesBack : ∃ h : List Byte, h = ((frameOf synOperands).drop 20).take 20 := ⟨_, rfl⟩

theorem witness_EmptyPayloadFrame : synOperands.pay = [] ∧ synState.payloadLen = 0 := by decide

/-- Two states with the same inputs that differ elsewhere: in data byte 3, in the frame buffer and in STATUS. -/
theorem witness_FrameDependsOnlyOnItsInputs :
    (hiState.srcAddr = hiAgainState.srcAddr ∧ hiState.dstAddr = hiAgainState.dstAddr ∧
      hiState.srcPort = hiAgainState.srcPort ∧ hiState.dstPort = hiAgainState.dstPort ∧
      hiState.seq = hiAgainState.seq ∧ hiState.ack = hiAgainState.ack ∧ hiState.flags = hiAgainState.flags ∧
      hiState.payloadLen = hiAgainState.payloadLen) ∧
    ∀ j, j < hiState.payloadLen.toNat → ∃ b, Memory.get? hiState.data j = some b ∧
      Memory.get? hiAgainState.data j = some b := by
  refine ⟨by decide, fun j hj => ?_⟩
  have hj' : j < 3 := hj
  match j, hj' with
  | 0, _ => exact ⟨0x48, by decide⟩
  | 1, _ => exact ⟨0x69, by decide⟩
  | 2, _ => exact ⟨0x21, by decide⟩

theorem witness_FrameBufferHoldsTheFrame :
    longOperands.Legal ∧ 65534 < 40 + longOperands.len ∧ 40 + longOperands.len ≤ 65535 := by
  have h := witness_longOperands_Legal
  exact ⟨h.1, by omega, by omega⟩

theorem witness_SinkReceivesTheFrameBuffer :
    (busyState .send (.go (some 1))).phase = .busy .send ∧ (busyState .send (.go (some 1))).slot = .go (some 1) ∧
    ({ busyState .send (.go (some 1)) with payloadLen := 65495 } : State).payloadLen.toNat ≤ 65495 := by decide

/-- The first and last offset of every region. -/
theorem witness_AddressMapIsAsLaidOut :
    regionOf 0x00 = .reg .ctrl ∧ regionOf 0x3C = .reg (.result .frameLen) ∧ regionOf 0x40 = .unmapped ∧
    regionOf 0xFFFF = .unmapped ∧ regionOf 0x10000 = .data 0 ∧ regionOf 0x1FFFF = .data 65535 ∧
    regionOf 0x20000 = .frame 0 ∧ regionOf 0x2FFFF = .frame 65535 ∧ regionOf 0x30000 = .unmapped ∧
    regionOf 0x3FFFF = .unmapped ∧ blockOffset 0x4000 0x4008 = some 0x08 ∧ blockOffset 0x4000 0x3FFF = none ∧
    blockOffset 0x4000 0x44000 = none := by decide

/-- A bad transaction of each kind, and good ones at the bounds of the mapped regions. -/
theorem witness_BusErrorsAreExactlyTheBadTransactions :
    (⟨true, 0x00, 3, 0⟩ : BusTxn).size ≠ 2 ∧ (⟨false, 0x06, 2, 0⟩ : BusTxn).addr.toNat % 4 ≠ 0 ∧
    (0x40 ≤ (⟨false, 0x40, 2, 0⟩ : BusTxn).addr.toNat ∧ (⟨false, 0xFFFC, 2, 0⟩ : BusTxn).addr.toNat < 0x10000) ∧
    0x30000 ≤ (⟨true, 0x30000, 2, 0⟩ : BusTxn).addr.toNat ∧
    ((⟨true, 0x3C, 2, 0⟩ : BusTxn).size = 2 ∧ (⟨true, 0x3C, 2, 0⟩ : BusTxn).addr.toNat % 4 = 0 ∧
      (⟨true, 0x3C, 2, 0⟩ : BusTxn).addr.toNat < 0x40) ∧
    (0x10000 ≤ (⟨true, 0x10000, 2, 0⟩ : BusTxn).addr.toNat ∧
      (⟨true, 0x2FFFC, 2, 0⟩ : BusTxn).addr.toNat < 0x30000) := by decide

theorem witness_InputRegisterReadsBackMasked :
    builtState.phase = .idle ∧ regionOf 0x34 ≠ .reg (.input .flags) ∧ regionOf 0x10000 ≠ .reg (.input .flags) := by
  decide

/-- The first and last word of each window, the bytes of a data word, and those of a frame word. -/
theorem witness_BufferWordsAreBigEndian :
    regionOf 0x10000 = .data 0 ∧ regionOf 0x1FFFC = .data 65532 ∧ hiState.phase = .idle ∧
    (Memory.get? hiState.data 0 = some 0x48 ∧ Memory.get? hiState.data (0 + 1) = some 0x69 ∧
      Memory.get? hiState.data (0 + 2) = some 0x21 ∧ Memory.get? hiState.data (0 + 3) = some 0x00) ∧
    regionOf 0x20024 = .frame 36 ∧ builtState.phase = .idle ∧ 36 + 3 < builtState.frameLen.toNat ∧
    (Memory.get? builtState.frame 36 = some 0x5B ∧ Memory.get? builtState.frame (36 + 1) = some 0x57 ∧
      Memory.get? builtState.frame (36 + 2) = some 0x00 ∧ Memory.get? builtState.frame (36 + 3) = some 0x00) := by decide

theorem witness_ReadsHaveNoSideEffect :
    (0x2FFFC : BitVec 18).toNat % 4 = 0 ∧ regionOf (0x2FFFC : BitVec 18).toNat ≠ .unmapped ∧
    (0x00 : BitVec 18).toNat % 4 = 0 ∧ regionOf (0x00 : BitVec 18).toNat ≠ .unmapped := by decide

/-- Frame byte FRAME_LEN is the first one outside the frame: the word at 40 of V-F3 has three bytes inside it and one outside (V-B3). A
data word has a written and an unwritten byte; and a frame byte above FRAME_LEN may be stored, and one below it may not. -/
theorem witness_ReadsInIdle :
    (builtHiState.phase = .idle ∧ regionOf 0x20028 = .frame 40 ∧ 40 + 2 < builtHiState.frameLen.toNat ∧
      Memory.get? builtHiState.frame (40 + 2) = some 0x21 ∧ builtHiState.frameLen.toNat ≤ 40 + 3) ∧
    (regionOf 0x10000 = .data 0 ∧ Memory.get? (csumState 1 [0xAB] 1 1).data (0 + 1) = some 0xAB ∧
      Memory.get? (csumState 1 [0xAB] 1 1).data (0 + 0) = none ∧ (csumState 1 [0xAB] 1 1).phase = .idle) ∧
    ({ builtHiState with frameLen := 40 } : State).frameLen.toNat ≤ 40 + 0 ∧
    0 + 3 < ({ State.reset with frameLen := 40 } : State).frameLen.toNat ∧
    Memory.get? ({ State.reset with frameLen := 40 } : State).frame (0 + 3) = none := by decide

theorem witness_ReadsWhileBusy :
    (busyState .send .hold).phase = .busy .send ∧ regionOf 0x20000 = .frame 0 ∧ regionOf 0x10000 = .data 0 := by decide

theorem witness_ReadOnlyWritesAreIgnored :
    (0x30 : BitVec 18).toNat % 4 = 0 ∧ regionOf (0x30 : BitVec 18).toNat = .reg (.result .csumResult) ∧
    (0x2FFFC : BitVec 18).toNat % 4 = 0 ∧ regionOf (0x2FFFC : BitVec 18).toNat = .frame 65532 := by decide

/-- A BUSY state, a target of each clause, and a step of it that is no reset. -/
theorem witness_BusyWritesAreDropped :
    ((busyState .build .hold).phase = .busy .build ∧ regionOf 0x00 = .reg .ctrl ∧ regionOf 0x2C = .reg (.input .csumLen) ∧
      regionOf 0x1FFFC = .data 65532 ∧ regionOf 0x04 = .reg .status ∧ regionOf 0x3C = .reg (.result .frameLen) ∧
      regionOf 0x20000 = .frame 0 ∧ (nextTurn (busyState .build .hold)).isReset = false) ∧
    ∃ t, step (busyState .build .hold) = .next t := by
  refine ⟨by decide, ?_⟩
  rw [step_of_nil rfl]
  exact engineTurn_next _

theorem witness_ScriptLinesExpand :
    0xFFFF < 0x10000 ∧
    ({ synState with schedule := [⟨.wait [], .go none⟩] } : State).schedule = ⟨.wait [], .go none⟩ :: [] ∧
    synState.phase = .idle ∧ (busyState .csum .hold).phase = .busy .csum ∧
    ({ busyState .csum .hold with schedule := [⟨.wait [], .hold⟩] } : State).schedule = ⟨.wait [], .hold⟩ :: [] ∧
    Command.csum ≠ .send ∧ 65495 < ({ busyState .send .hold with payloadLen := 65496 } : State).payloadLen.toNat ∧
    (busyState .send .hold).phase = .busy .send ∧
    [EngineSlot.hold, .go none, .go (some 1)].any EngineSlot.answers = true := by decide

/-- A LOAD of three bytes that ends at the end of the data buffer, padded by one. -/
theorem witness_LoadPlacesTheBytes :
    65532 % 4 = 0 ∧ 65532 + [(0x48 : Byte), 0x69, 0x21].length ≤ 65536 ∧
    ({ State.reset with schedule := scheduleOf [.load 65532 [0x48, 0x69, 0x21]] [] } : State).phase = .idle ∧
    3 < ([(0x48 : Byte), 0x69, 0x21].length + 3) / 4 * 4 := by decide

/-- A SEND past its length check that is reset, and one that is not past it. -/
theorem witness_ResetFromAnyState :
    ({ busyState .send .hold with schedule := [⟨.reset (some (20, 1)), .hold⟩] } : State).schedule
      = ⟨.reset (some (20, 1)), .hold⟩ :: [] ∧
    (busyState .send .hold).phase = .busy .send ∧ (busyState .send .hold).payloadLen.toNat ≤ 65495 ∧
    synState.phase ≠ .busy .send ∧ 65495 < ({ busyState .send .hold with payloadLen := 65496 } : State).payloadLen.toNat := by
  decide

/-- The invariant holds of a state with a frame and a record, and that state steps. -/
theorem witness_EveryStepKeepsTheInvariant : sentState.Inv ∧ ∃ t, step sentState = .next t := by
  have hl : synOperands.Legal := Nat.zero_le _
  have h0 : synState.Inv :=
    ⟨wf_nil, wf_nil, (by intro h; cases h), (fun _ => rfl), Or.inl ⟨rfl, rfl, rfl⟩, (by intro t h; cases h)⟩
  have hw := writeResults_inv (s := synState) synOperands h0 hl
  have hb : builtState.Inv := finish_inv .ok wf_nil hw.1 hw.2 (by intro r h; cases h)
  have hs : sentState.Inv := by
    refine ⟨hb.1, hb.2, (by intro h; cases h), (by intro h; cases h), hb.5, fun r hr => ?_⟩
    rcases List.mem_append.1 hr with hr | hr
    · cases hr
    · rw [List.mem_singleton] at hr
      subst hr
      exact ⟨synOperands, (frameOf synOperands).length, hl, (List.take_length ..).symm, rfl, rfl⟩
  refine ⟨hs, ?_⟩
  rw [step_of_nil rfl]
  exact engineTurn_next _

/-- A step that sends, past its length check. -/
theorem witness_TxLogGainsOnlyTheRecordOfASend :
    (busyState .send .hold).sending ∧ ∃ t, step (busyState .send .hold) = .next t := by
  refine ⟨⟨by decide, .inl rfl⟩, ?_⟩
  rw [step_of_nil rfl]
  exact engineTurn_next _

theorem witness_FrameChangesOnlyByBuildOrSend :
    (nextTurn (busyState .build .hold)).isReset = false ∧ (busyState .build .hold).assembling ∧
      ∃ t, step (busyState .build .hold) = .next t := by
  refine ⟨rfl, ⟨by decide, .inl (.inl rfl)⟩, ?_⟩
  rw [step_of_nil rfl]
  exact engineTurn_next _

/-- An enabled engine step of each kind and the one that is not enabled; a silent turn; and schedules with and without an answer: a WAIT
that brings one, a reset, none at all, and an answer that a WAIT never lets come. -/
theorem witness_EnabledEngineStepEndsTheCommand :
    ((busyState .csum (.go none)).phase = .busy .csum ∧ (busyState .csum (.go none)).slot = .go none ∧
      Command.csum ≠ .send ∧ 65495 < ({ busyState .send (.go none) with payloadLen := 65496 } : State).payloadLen.toNat ∧
      (some 0 : Option (BitVec 2)) ≠ none ∧ (busyState .send (.go none)).phase = .busy .send ∧
      (busyState .send (.go none)).payloadLen.toNat ≤ 65495) ∧
    ((nextTurn { busyState .send .hold with schedule := [quietTurn (.go none)] }).isReset = false ∧
      (nextTurn { busyState .send .hold with schedule := [quietTurn (.go none)] }).engine.answers = false) ∧
    endsSend [⟨.wait [.hold, .go (some 2)], .hold⟩] = true ∧ endsSend [quietTurn .hold, ⟨.reset none, .hold⟩] = true ∧
    endsSend [] = false ∧ endsSend [⟨.wait [.hold], .hold⟩, quietTurn (.go (some 0))] = false := by decide

end Sys2Proof.Tests
end

section
/-! SUPPORT. The invariant over the parts of a turn: the host's part, the engine's part, and a reset. -/

namespace Sys2Proof.Machine

/-- The invariant reads the buffers, the frame registers, TxLog and STATUS: where those but STATUS are kept, STATUS alone decides. -/
theorem inv_of_status {s u : State} (h : s.Inv) (hd : u.data = s.data) (hf : u.frame = s.frame)
    (hl : u.frameLen = s.frameLen) (hi : u.ipCsum = s.ipCsum) (ht : u.tcpCsum = s.tcpCsum) (hx : u.txLog = s.txLog)
    (hb : u.busy = true → u.done = false) (he : u.done = false → u.err = .ok) : u.Inv := by
  refine ⟨hd ▸ h.data_wf, hf ▸ h.frame_wf, hb, he, ?_, hx ▸ h.log_ok⟩
  have hframe := h.frame_ok
  simp only [State.FrameOk, State.frameIs] at hframe ⊢
  rwa [hf, hl, hi, ht]

/-- The state after power-on reset meets the invariant: nothing is listed, and every register is 0. -/
theorem reset_inv : State.reset.Inv :=
  ⟨wf_nil, wf_nil, fun _ => rfl, fun _ => rfl, .inl ⟨rfl, rfl, rfl⟩, fun _ h => by cases h⟩

/-- Taking the turn off the schedule keeps the invariant. -/
theorem beginTurn_inv {s : State} (h : s.Inv) : (beginTurn s).Inv :=
  inv_of_status h rfl rfl rfl rfl rfl rfl h.busy_not_done h.err_of_done

/-- A host read keeps the invariant, whatever then stands in the schedule. -/
theorem hostRead_inv {s : State} (a : Nat) (q : List Turn) (h : s.Inv) : ({ hostRead a s with schedule := q } : State).Inv :=
  inv_of_status h rfl rfl rfl rfl rfl rfl h.busy_not_done h.err_of_done

/-- A STATUS write clears DONE and ERR together, so it keeps the invariant. -/
theorem writeStatus_inv {s : State} (v : Word) (h : s.Inv) : (writeStatus v s).Inv := by
  rw [writeStatus_eq]
  refine inv_of_status h rfl rfl rfl rfl rfl rfl (fun hb => ?_) (fun hd => ?_)
  · show (if v.getLsbD 1 then false else s.done) = false
    rw [h.busy_not_done hb, ite_self]
  · dsimp only at hd ⊢
    split
    · rfl
    · rename_i hv
      exact h.err_of_done (by rwa [if_neg hv] at hd)

/-- Storing an input register keeps the invariant: no input register stands in it. -/
theorem storeInput_inv {s : State} (r : InputReg) (v : Word) (h : s.Inv) : (storeInput r v s).Inv := by
  cases r <;> exact inv_of_status h rfl rfl rfl rfl rfl rfl h.busy_not_done h.err_of_done

/-- Storing four bytes inside the data buffer keeps the invariant. -/
theorem storeData_inv {s : State} {i : Nat} (v : Word) (h : s.Inv) (hi : i + 4 ≤ 65536) : (storeData i v s).Inv :=
  ⟨wf_setBytes h.data_wf hi, h.frame_wf, h.busy_not_done, h.err_of_done, h.frame_ok, h.log_ok⟩

/-- The host's part of a turn keeps the invariant. -/
theorem hostPart_inv {t : Turn} {s u : State} (h : s.Inv) (hu : HostPart t s u) : u.Inv := by
  rcases hu with rfl | ⟨a, rfl⟩ | ⟨v, rfl⟩ | ⟨_, rfl⟩ | ⟨hp, rfl⟩ | ⟨_, c, _, _, _, rfl⟩ | ⟨_, r, v, rfl⟩ |
    ⟨_, i, v, hi, rfl⟩
  · exact h
  · exact hostRead_inv a s.schedule h
  · exact writeStatus_inv v h
  · exact inv_of_status h rfl rfl rfl rfl rfl rfl h.busy_not_done h.err_of_done
  · exact inv_of_status h rfl rfl rfl rfl rfl rfl (by simp [not_busy_iff.2 hp]) (fun hd => by cases hd)
  · exact inv_of_status h rfl rfl rfl rfl rfl rfl (fun _ => rfl) (fun _ => rfl)
  · exact storeInput_inv r v h
  · exact storeData_inv v h hi

/-- The record of a SEND past its length check, of any part of its frame, is a legal one. -/
theorem txRecord_ok {s : State} (k : Nat) (r : SinkResponse) (hl : payloadTooLong s = false) :
    (txRecord s ((frameOf (operands s)).take k) r).Ok :=
  ⟨operands s, k, operands_legal hl, rfl, rfl, rfl⟩

/-- Appending a legal record to TxLog keeps the invariant. -/
theorem logSend_inv {s : State} {r : TxRecord} (h : s.Inv) (hr : r.Ok) : (logSend r s).Inv := by
  refine ⟨h.data_wf, h.frame_wf, h.busy_not_done, h.err_of_done, h.frame_ok, fun t ht => ?_⟩
  rcases List.mem_append.1 ht with ht | ht
  · exact h.log_ok t ht
  · exact List.mem_singleton.1 ht ▸ hr

/-- Counting free values keeps the invariant. -/
theorem useDraws_inv {s : State} (n : Nat) (h : s.Inv) : (useDraws n s).Inv :=
  inv_of_status h rfl rfl rfl rfl rfl rfl h.busy_not_done h.err_of_done

/-- Ending a command keeps the invariant. -/
theorem finish_keeps_inv {s : State} (e : ErrCode) (h : s.Inv) : (finish e s).Inv :=
  finish_inv e h.data_wf h.frame_wf h.frame_ok h.log_ok

/-- A checksum of a span keeps the invariant: CSUM_RESULT does not stand in it. -/
theorem writeChecksum_inv {s : State} (c : Half) (h : s.Inv) : (writeChecksum c s).Inv :=
  inv_of_status h rfl rfl rfl rfl rfl rfl h.busy_not_done h.err_of_done

/-- The results of a legal BUILD or SEND keep the whole invariant. -/
theorem writeResults_keeps_inv {s : State} {x : Operands} (h : s.Inv) (hl : x.Legal) : (writeResults x s).Inv := by
  obtain ⟨hwf, hok⟩ := writeResults_inv x h hl
  exact ⟨by simpa using h.data_wf, hwf, by simpa using h.busy_not_done, by simpa using h.err_of_done, hok,
    by simpa using h.log_ok⟩

/-- The engine's part of a turn keeps the invariant. -/
theorem engineTurn_inv {s t : State} (h : s.Inv) (ht : engineTurn s = .next t) : t.Inv := by
  rcases engineTurn_next_cases ht with rfl | ⟨_, rfl | rfl | ⟨hl, hend⟩⟩
  · exact h
  · exact finish_keeps_inv _ h
  · exact finish_keeps_inv _ (useDraws_inv _ (writeChecksum_inv _ h))
  · have hw := useDraws_inv (payloadLength s) (writeResults_keeps_inv h (operands_legal hl))
    rcases hend with ⟨_, rfl⟩ | ⟨_, code, rfl⟩
    · exact finish_keeps_inv _ hw
    · have hr := txRecord_ok (frameOf (operands s)).length (responseOf code) hl
      rw [List.take_length] at hr
      exact finish_keeps_inv _ (logSend_inv hw hr)

/-- The state a reset leaves meets the invariant: TxLog alone is kept. -/
theorem resetBlock_inv {s : State} (h : s.Inv) : (resetBlock s).Inv :=
  ⟨wf_nil, wf_nil, fun _ => rfl, fun _ => rfl, .inl ⟨rfl, rfl, rfl⟩, h.log_ok⟩

/-- A reset keeps the invariant: the record it may leave is a part of a legal frame (70_reset_and_hazards.md R182). -/
theorem resetWith_inv {s : State} (cut : Option (Nat × BitVec 2)) (h : s.Inv) :
    (resetWith Config.params cut s).Inv := by
  unfold resetWith
  split
  · rename_i k code _
    split
    · exact resetBlock_inv h
    · rename_i hl
      exact resetBlock_inv (useDraws_inv _ (logSend_inv h (txRecord_ok k (responseOf code) (by simpa using hl))))
  · exact resetBlock_inv h

/-- A step keeps the invariant: a reset, or the host's part and then the engine's. -/
theorem step_inv {s t : State} (h : s.Inv) (ht : step s = .next t) : t.Inv := by
  have hb := beginTurn_inv h
  rcases takeTurn_next_cases ht with ⟨cut, _, rfl⟩ | ⟨u, hu, ⟨_, later, rfl⟩ | hpart⟩
  · exact resetWith_inv cut hb
  · exact engineTurn_inv (hostRead_inv _ _ hb) hu
  · exact engineTurn_inv (hostPart_inv hb hpart) hu

end Sys2Proof.Machine
end

section
/-! SUPPORT. The statements on the invariant. -/

open Sys2Proof Sys2Proof.Machine

/-- Settles O57, from what a reset, the host's part and the engine's part of a turn keep. -/
theorem everyStepKeepsTheInvariant : Obligations.EveryStepKeepsTheInvariant :=
  fun _ _ h ht => step_inv h ht

/-- Settles O56. -/
theorem invariantHoldsAtReset : Obligations.InvariantHoldsAtReset := reset_inv

end

section
/-! SUPPORT. The address map at a register, the stores, the commands in IDLE, the payload, and STATUS as the host reads it. -/

namespace Sys2Proof.Machine

/-! ### Registers on the bus -/

/-- A register's offset names it (10_state.md R22, 20_memory.md R51). -/
@[simp] theorem regionOf_offset (r : Reg) : regionOf r.offset = .reg r := by
  cases r with
  | ctrl => rfl
  | status => rfl
  | input r => cases r <;> rfl
  | result r => cases r <;> rfl

/-- A host write to a place that is not CTRL is a store. -/
theorem hostWrite_store {a : Nat} (v : Word) (s : State) (h : regionOf a ≠ .reg .ctrl) :
    hostWrite a v s = engineTurn (hostStore (regionOf a) v s) := by
  simp only [hostWrite, h, if_false]

/-- A host write to a register other than CTRL is a store. -/
theorem hostWrite_reg {r : Reg} (v : Word) (s : State) (h : r ≠ .ctrl) :
    hostWrite r.offset v s = engineTurn (hostStore (.reg r) v s) := by
  rw [hostWrite_store v s (by simpa using h), regionOf_offset]

/-- An aligned write to a mapped offset passes the bus. -/
theorem busTurn_write {o : BitVec 18} (v : Word) (s : State) (h4 : o.toNat % 4 = 0) (hu : regionOf o.toNat ≠ .unmapped) :
    busTurn { wr := true, addr := o, size := 2, wdata := v } s = hostWrite o.toNat v s :=
  busTurn_of_ok (busFault_eq_none.2 ⟨rfl, h4, hu⟩)

/-! ### Storing an input register -/

/-- Keeping the low bits of a word masks it. -/
theorem setWidth_extractLsb'_eq_and (n : Nat) (v : Word) (h : n ≤ 32) :
    (v.extractLsb' 0 n).setWidth 32 = v &&& BitVec.ofNat 32 (2 ^ n - 1) := by
  apply BitVec.eq_of_toNat_eq
  have := Nat.pow_le_pow_right (n := 2) (by omega) h
  rw [BitVec.toNat_and, BitVec.toNat_ofNat, Nat.mod_eq_of_lt (by omega), Nat.and_two_pow_sub_one_eq_mod,
    BitVec.toNat_setWidth, BitVec.extractLsb'_toNat, Nat.shiftRight_zero]
  exact Nat.mod_eq_of_lt ((Nat.mod_lt _ (Nat.two_pow_pos n)).trans_le this)

/-- The stored value of an input register is the value written, masked to the bits it uses (10_state.md R26 to R32). -/
theorem readInput_storeInput_self (r : InputReg) (v : Word) (s : State) :
    readInput (storeInput r v s) r = v &&& inputMask r := by
  cases r with
  | srcPort => exact setWidth_extractLsb'_eq_and 16 v (by omega)
  | dstPort => exact setWidth_extractLsb'_eq_and 16 v (by omega)
  | flags => exact setWidth_extractLsb'_eq_and 6 v (by omega)
  | _ => exact BitVec.and_allOnes.symm

/-- Another input register keeps its value. -/
theorem readInput_storeInput_ne {r r' : InputReg} (v : Word) (s : State) (h : r' ≠ r) :
    readInput (storeInput r v s) r' = readInput s r' := by
  cases r <;> cases r' <;> trivial

/-- Storing an input register changes the ten input registers at most. -/
theorem storeInput_frame (r : InputReg) (v : Word) (s : State) :
    ∃ sa da sp dp sq ac fl pl cb cl, storeInput r v s = { s with
      srcAddr := sa, dstAddr := da, srcPort := sp, dstPort := dp, seq := sq, ack := ac, flags := fl,
      payloadLen := pl, csumBase := cb, csumLen := cl } := by
  cases r <;> exact ⟨_, _, _, _, _, _, _, _, _, _, rfl⟩

/-- A place of the address map other than the register written reads as before. -/
theorem readValue_storeInput {a : Nat} {r : InputReg} (v : Word) (s : State) (h : regionOf a ≠ .reg (.input r)) :
    readValue a (storeInput r v s) = readValue a s := by
  obtain ⟨sa, da, sp, dp, sq, ac, fl, pl, cb, cl, e⟩ := storeInput_frame r v s
  unfold readValue
  split
  · rfl
  · rw [e]; rfl
  · rename_i r' hr
    exact readInput_storeInput_ne v s (fun hrr => h (hrr ▸ hr))
  · rw [e]; rfl
  · rw [e]
  · rw [e]; rfl
  · rfl

/-! ### Commands -/

/-- What a command leaves in IDLE before the engine's part of the turn (10_state.md R31). -/
def ctrlPart : Instr → State → State
  | .nop _ => id
  | .csum _ => start .csum
  | .build _ => start .build
  | .send _ => start .send
  | .reserved _ _ => illegalCommand

/-- A command in IDLE is its own part, then the engine's. -/
theorem exec_idle {s : State} (i : Instr) (h : s.phase = .idle) : exec i s = engineTurn (ctrlPart i s) := by
  cases i <;> exact congrArg engineTurn (whenIdle_idle _ h)

/-- A command neither reads nor changes the schedule and the engine slot. -/
theorem ctrlPart_schedule_slot (i : Instr) (q : List Turn) (z : EngineSlot) (s : State) :
    ctrlPart i { s with schedule := q, slot := z } = { ctrlPart i s with schedule := q, slot := z } := by
  cases i <;> rfl

/-- A turn that writes a word to CTRL runs the command the word decodes to. -/
theorem step_ctrlTurn {s : State} {v : Word} {slot : EngineSlot} {rest : List Turn}
    (h : s.schedule = ctrlTurn v slot :: rest) :
    step s = exec (decodeCtrl v) { s with schedule := rest, slot := slot } := by
  rw [step_of_schedule h]
  exact busTurn_ctrl v _

/-- A turn in which the host does nothing is the engine's part alone. -/
theorem step_quietTurn {s : State} {slot : EngineSlot} {rest : List Turn}
    (h : s.schedule = quietTurn slot :: rest) : step s = engineTurn { s with schedule := rest, slot := slot } :=
  step_of_schedule h

/-! ### The payload -/

/-- Written payload bytes read the same, whatever the free values (10_state.md R42). -/
theorem payloadBytes_congr {s s' : State} (hl : s.payloadLen = s'.payloadLen)
    (hd : ∀ j, j < s.payloadLen.toNat → ∃ b, Memory.get? s.data j = some b ∧ Memory.get? s'.data j = some b) :
    payloadBytes s = payloadBytes s' := by
  have hlen : payloadLength s' = payloadLength s := congrArg BitVec.toNat hl.symm
  refine List.ext_getElem? fun k => ?_
  rcases Nat.lt_or_ge k (payloadLength s) with hk | hk
  · obtain ⟨b, hb, hb'⟩ := hd k hk
    rw [payloadBytes, payloadBytes, hlen, readSpan_getElem? hk, readSpan_getElem? hk, Nat.zero_add,
      readByte_of_get? hb, readByte_of_get? hb']
  · rw [List.getElem?_eq_none (by simpa [payloadBytes] using hk),
      List.getElem?_eq_none (by simpa [payloadBytes, hlen] using hk)]

/-! ### STATUS -/

/-- The bits of STATUS, lowest first (10_state.md R24). -/
theorem statusWord_getLsbD (s : State) (i : Nat) :
    (statusWord s).getLsbD i = if i = 0 then s.busy else if i = 1 then s.done else if i = 2 then s.ign
      else if i = 3 then false else s.err.code.getLsbD (i - 4) := by
  simp only [statusWord, BitVec.getLsbD_append]
  rcases i with _ | _ | _ | _ | i
  · simp
  · simp
  · simp
  · simp
  · simpa using BitVec.lt_of_getLsbD

/-- The bits of STATUS from bit 4 on are those of ERR. -/
theorem statusWord_getLsbD_err (s : State) {i : Nat} (h : 4 ≤ i) :
    (statusWord s).getLsbD i = s.err.code.getLsbD (i - 4) := by
  rw [statusWord_getLsbD, if_neg (by omega), if_neg (by omega), if_neg (by omega), if_neg (by omega)]

theorem ErrCode.code_le (e : ErrCode) : e.code.toNat ≤ 4 := by
  cases e <;> decide

end Sys2Proof.Machine
end

section
/-! SUPPORT. The statements on commands, registers, STATUS, the frame's inputs and the reset values. -/

open Sys2Proof Sys2Proof.Machine

/-- Settles O5: a placed word stands in a CTRL turn at the head of the schedule. -/
theorem stepRunsTheDecodedCommand : Obligations.StepRunsTheDecodedCommand := by
  refine ⟨fun v slot rest s h => step_ctrlTurn h, fun w s hw => ?_⟩
  have h : (s.withFetchWord 32 w).schedule
      = ctrlTurn (BitVec.ofNat 32 w) (.go (some (Config.freeSinkCode s.draws))) :: s.schedule := by
    simp only [State.withFetchWord, Nat.mod_eq_of_lt hw]
    rfl
  exact step_ctrlTurn h

/-- Settles O9: the start is all that happens, since the engine holds. -/
theorem startLatchesTheCommand : Obligations.StartLatchesTheCommand := by
  intro g s hp hs
  have started (c : Command) : engineTurn (start c s) = .next (start c s) := engineTurn_hold hs
  exact ⟨(exec_idle _ hp).trans (started _), (exec_idle _ hp).trans (started _), (exec_idle _ hp).trans (started _)⟩

/-- Settles O48, from the bits of STATUS. -/
theorem statusWordFields : Obligations.StatusWordFields := by
  intro s
  refine ⟨statusWord_getLsbD s 0, statusWord_getLsbD s 1, statusWord_getLsbD s 2, statusWord_getLsbD s 3,
    BitVec.eq_of_getLsbD_eq fun i hi => ?_, BitVec.eq_of_getLsbD_eq fun i hi => ?_, ErrCode.code_le _⟩
  · rw [BitVec.getLsbD_extractLsb', statusWord_getLsbD_err s (by omega), Nat.add_sub_cancel_left]
    simp [hi]
  · rw [BitVec.getLsbD_extractLsb', statusWord_getLsbD_err s (by omega), BitVec.getLsbD_of_ge _ _ (by omega)]
    simp

/-- Settles O49: the target is STATUS, whose store no phase drops. -/
theorem statusWriteClearsItsBits : Obligations.StatusWriteClearsItsBits := by
  intro v s
  rw [hostWrite_reg v s (by simp), ← writeStatus_eq]
  rfl

/-- Settles O47, by the region each offset names. -/
theorem readsWhileBusy : Obligations.ReadsWhileBusy := by
  intro s c hp
  have hb : s.busy = true := busy_iff.2 ⟨c, hp⟩
  refine ⟨fun r => ?_, fun a i ha => ?_, ?_, ?_, fun r => ?_, fun a i ha => ?_⟩
  · simp only [readValue, regionOf_offset, hb, if_true]
  · simp only [readValue, ha, hb, if_true]
  · simp only [readValue, regionOf_offset, (statusWordFields s).1, hb]
  · simp only [readValue, regionOf_offset]
  · simp only [readValue, regionOf_offset]
  · simp only [readValue, ha]

/-- Settles O50: such a write passes the bus and its store leaves the state. -/
theorem readOnlyWritesAreIgnored : Obligations.ReadOnlyWritesAreIgnored := by
  intro o v s h4 hr
  rcases hr with ⟨r, hr⟩ | ⟨i, hr⟩
  · rw [busTurn_write v s h4 (by simp [hr]), hostWrite_store v s (by simp [hr]), hr, hostStore]
  · rw [busTurn_write v s h4 (by simp [hr]), hostWrite_store v s (by simp [hr]), hr, hostStore]

/-- Settles O16: a command neither reads nor changes the schedule and the engine slot, so its own part commutes with the turn. -/
theorem delayedEngineStepGivesTheSameState : Obligations.DelayedEngineStepGivesTheSameState := by
  intro v sink rest s hp
  have ctrl (slot : EngineSlot) (q : List Turn) : step { s with schedule := ctrlTurn v slot :: q }
      = engineTurn { ctrlPart (decodeCtrl v) s with schedule := q, slot := slot } := by
    have h := exec_idle (s := { s with schedule := q, slot := slot }) (decodeCtrl v) hp
    exact (step_ctrlTurn rfl).trans (h.trans (congrArg engineTurn (ctrlPart_schedule_slot _ q slot s)))
  have first := (ctrl .hold (quietTurn (.go sink) :: rest)).trans (engineTurn_hold rfl)
  rw [runSteps_succ, first, andThen_next, runSteps_one, step_quietTurn rfl, ctrl]

/-- Settles O43: the write is the store alone, since the engine does nothing in IDLE. -/
theorem inputRegisterReadsBackMasked : Obligations.InputRegisterReadsBackMasked := by
  intro r v s hp
  obtain ⟨sa, da, sp, dp, sq, ac, fl, pl, cb, cl, e⟩ := storeInput_frame r v s
  have hw : hostWrite (Reg.input r).offset v s = .next (storeInput r v s) := by
    rw [hostWrite_reg v s (by simp)]
    exact (congrArg engineTurn (whenIdle_idle _ hp)).trans (engineTurn_idle (by rw [e]; exact hp))
  refine ⟨_, hw, ?_, fun a => readValue_storeInput v s, ?_⟩
  · simp only [readValue, regionOf_offset]
    exact readInput_storeInput_self r v s
  · rw [e]
    exact ⟨rfl, rfl, rfl, rfl, rfl, rfl⟩

/-- Settles O38: written payload bytes read the same whatever the free values, so the operands are equal. -/
theorem frameDependsOnlyOnItsInputs : Obligations.FrameDependsOnlyOnItsInputs := by
  intro s s' hsrc hdst hsport hdport hseq hack hflags hlen hd
  simp only [operands, operandsWith, hsrc, hdst, hsport, hdport, hseq, hack, hflags, payloadBytes_congr hlen hd]

/-- Settles O54, by the registers, and for a later reset by what it does with the SEND it abandons. -/
theorem resetValues : Obligations.ResetValues := by
  refine ⟨fun r => ?_, rfl, fun _ => ⟨rfl, rfl⟩, rfl, fun p cut s => ?_⟩
  · simp only [readValue, regionOf_offset]
    cases r with
    | ctrl => rfl
    | status => rfl
    | input r => cases r <;> rfl
    | result r => cases r <;> rfl
  · unfold resetWith
    split
    · split
      · exact ⟨[], s.draws, by simp [resetBlock]⟩
      · exact ⟨_, _, rfl⟩
    · exact ⟨[], s.draws, by simp [resetBlock]⟩

end

section
/-! SUPPORT. Steps while BUSY and in IDLE: what each part of a turn keeps of the inputs and of the frame. -/

namespace Sys2Proof.Machine

/-! ### One step while BUSY -/

/-- While BUSY a step is a bus error, a reset, or the engine's part after a host part that changes no input, no result, no buffer and not
the command in progress (10_state.md R39). -/
theorem step_busy {s : State} {c : Command} (h : s.phase = .busy c) :
    (∃ b f, (nextTurn s).host = .bus b ∧ busFault b = some f ∧ step s = .fault f) ∨
    (∃ cut, (nextTurn s).host = .reset cut ∧ step s = .next (resetWith Config.params cut (beginTurn s))) ∨
    (nextTurn s).isReset = false ∧ ∃ d e g r n, step s
      = engineTurn { s with
          done := d, err := e, ign := g, rdata := r, draws := n,
          schedule := restAfter (nextTurn s) s.schedule.tail, slot := (nextTurn s).engine } :=
  takeTurn_busy (s := beginTurn s) h

/-- The engine's part of a turn changes no input register and no data byte. -/
theorem engineTurn_keeps_inputs {s t : State} (h : engineTurn s = .next t) :
    t.srcAddr = s.srcAddr ∧ t.dstAddr = s.dstAddr ∧ t.srcPort = s.srcPort ∧ t.dstPort = s.dstPort ∧
    t.seq = s.seq ∧ t.ack = s.ack ∧ t.flags = s.flags ∧ t.payloadLen = s.payloadLen ∧
    t.csumBase = s.csumBase ∧ t.csumLen = s.csumLen ∧ t.data = s.data := by
  rcases engineTurn_next_cases h with rfl | ⟨_, rfl | rfl | ⟨_, ⟨_, rfl⟩ | ⟨_, code, rfl⟩⟩⟩ <;> simp

/-- The engine's part of a turn leaves the frame buffer and its registers, or writes those of a BUILD or SEND past its length check. -/
theorem engineTurn_frame_cases {s t : State} (h : engineTurn s = .next t) :
    (t.frame = s.frame ∧ t.ipCsum = s.ipCsum ∧ t.tcpCsum = s.tcpCsum ∧ t.frameLen = s.frameLen) ∨
    payloadTooLong s = false ∧ (s.phase = .busy .build ∨ s.phase = .busy .send) ∧
      t.frame = Memory.setBytes s.frame 0 (frameOf (operands s)) ∧ t.ipCsum = ipChecksum (operands s) ∧
      t.tcpCsum = tcpChecksum (operands s) ∧ t.frameLen.toNat = 40 + s.payloadLen.toNat := by
  rcases engineTurn_next_cases h with rfl | ⟨_, rfl | rfl | ⟨hl, hend⟩⟩
  · exact .inl ⟨rfl, rfl, rfl, rfl⟩
  · exact .inl ⟨rfl, rfl, rfl, rfl⟩
  · exact .inl ⟨rfl, rfl, rfl, rfl⟩
  · have hlen : (BitVec.ofNat 16 (40 + (operands s).len)).toNat = 40 + s.payloadLen.toNat := by
      have := operands_legal hl
      simp only [Operands.Legal, maxPayload, operands_len] at this ⊢
      rw [BitVec.toNat_ofNat]
      omega
    rcases hend with ⟨hp, rfl⟩ | ⟨hp, code, rfl⟩
    · exact .inr ⟨hl, .inl hp, by simp, by simp, by simp, by simpa using hlen⟩
    · exact .inr ⟨hl, .inr hp, by simp, by simp, by simp, by simpa using hlen⟩

/-- In IDLE the host's part of a turn leaves IDLE, the frame buffer and its registers, or starts a command. -/
theorem hostPart_idle {t : Turn} {s u : State} (h : s.phase = .idle) (hu : HostPart t s u) :
    (u.phase = .idle ∧ u.frame = s.frame ∧ u.ipCsum = s.ipCsum ∧ u.tcpCsum = s.tcpCsum ∧ u.frameLen = s.frameLen) ∨
    ∃ c v, t.host = memWrite 0 v ∧ cmdField v = cmdField (startWord c) ∧ u = start c s := by
  rcases hu with rfl | ⟨a, rfl⟩ | ⟨v, rfl⟩ | ⟨_, rfl⟩ | ⟨_, rfl⟩ | ⟨_, c, v, ht, hc, rfl⟩ | ⟨_, r, v, rfl⟩ |
    ⟨_, i, v, _, rfl⟩
  · exact .inl ⟨h, rfl, rfl, rfl, rfl⟩
  · exact .inl ⟨h, rfl, rfl, rfl, rfl⟩
  · rw [writeStatus_eq]
    exact .inl ⟨h, rfl, rfl, rfl, rfl⟩
  · exact .inl ⟨h, rfl, rfl, rfl, rfl⟩
  · exact .inl ⟨h, rfl, rfl, rfl, rfl⟩
  · exact .inr ⟨c, v, ht, hc, rfl⟩
  · obtain ⟨_, _, _, _, _, _, _, _, _, _, e⟩ := storeInput_frame r v s
    rw [e]
    exact .inl ⟨h, rfl, rfl, rfl, rfl⟩
  · exact .inl ⟨h, rfl, rfl, rfl, rfl⟩

end Sys2Proof.Machine
end

section
/-! SUPPORT. The statements on what a step leaves of the inputs and of the frame. -/

open Sys2Proof Sys2Proof.Machine

/-- Settles O51: the first part by the target of the write, the consequence because neither the host's part nor the engine's part of a
turn changes an input while BUSY. -/
theorem busyWritesAreDropped : Obligations.BusyWritesAreDropped := by
  refine ⟨fun s c a v hp => ⟨fun ha => ?_, fun ha => ?_, fun ha => ?_⟩, fun s t c hp hr ht => ?_⟩
  · rcases ha with ha | ⟨r, ha⟩ | ⟨i, ha⟩
    · rw [hostWrite, if_pos ha, exec_busy _ hp]; rfl
    · rw [hostWrite_store v s (by simp [ha]), ha, hostStore, whenIdle_busy _ hp]; rfl
    · rw [hostWrite_store v s (by simp [ha]), ha, hostStore, whenIdle_busy _ hp]; rfl
  · rw [hostWrite_store v s (by simp [ha]), ha, hostStore]
  · rcases ha with ⟨r, ha⟩ | ⟨i, ha⟩
    · rw [hostWrite_store v s (by simp [ha]), ha, hostStore]
    · rw [hostWrite_store v s (by simp [ha]), ha, hostStore]
  · rcases step_busy hp with ⟨_, _, _, _, e⟩ | ⟨cut, hc, _⟩ | ⟨_, _, _, _, _, _, e⟩
    · rw [e] at ht; cases ht
    · simp [Turn.isReset, hc] at hr
    · have kept := engineTurn_keeps_inputs (e.symm.trans ht)
      exact kept

/-- Settles O59: while BUSY the engine's part sees the operands of this state, and in IDLE only a start lets it write a frame. -/
theorem frameChangesOnlyByBuildOrSend : Obligations.FrameChangesOnlyByBuildOrSend := by
  intro s t hr ht
  cases hp : s.phase with
  | busy c =>
    rcases step_busy hp with ⟨_, _, _, _, e⟩ | ⟨cut, hc, _⟩ | ⟨_, d, e, g, r, n, he⟩
    · rw [e] at ht; cases ht
    · simp [Turn.isReset, hc] at hr
    · rcases engineTurn_frame_cases (he.symm.trans ht) with hsame | ⟨hl, hrun, hwritten⟩
      · exact .inl hsame
      · exact .inr ⟨⟨hl, hrun.imp .inl .inl⟩, n, _, rfl, operands_legal hl, hwritten⟩
  | idle =>
    rcases takeTurn_next_cases ht with ⟨cut, hc, _⟩ | ⟨u, hu, ⟨hb, _⟩ | hpart⟩
    · simp [Turn.isReset, hc] at hr
    · simp [not_busy_iff.2 hp] at hb
    · rcases hostPart_idle (s := beginTurn s) hp hpart with ⟨hpu, hsame⟩ | ⟨c, v, hv, hcmd, rfl⟩
      · rw [engineTurn_idle hpu] at hu
        cases hu
        exact .inl hsame
      · have running {c' : Command} (h : (start c (beginTurn s)).phase = .busy c') : s.running c' := by
          cases h
          exact .inr ⟨hp, v, hv, hcmd⟩
        rcases engineTurn_frame_cases hu with hsame | ⟨hl, hrun, hwritten⟩
        · exact .inl hsame
        · exact .inr ⟨⟨hl, hrun.imp running running⟩, s.draws, _, rfl, operands_legal hl, hwritten⟩

end

section
/-! SUPPORT. How a command in progress ends: when its engine step is enabled, what a turn without it leaves, and how many turns remain. -/

namespace Sys2Proof.Machine

/-! ### The engine step of a command in progress -/

/-- A CSUM, a BUILD, and a SEND that fails its length check: their engine step asks nothing of the sink (10_state.md R31). -/
def State.EndsAlone (s : State) (c : Command) : Prop := c ≠ .send ∨ 65495 < s.payloadLen.toNat

theorem payloadTooLong_eq_false {s : State} : payloadTooLong s = false ↔ s.payloadLen.toNat ≤ 65495 := by
  simp [payloadTooLong, payloadLength, maxPayload]

/-- An enabled engine step ends the command: IDLE with DONE (10_state.md R31). -/
theorem engineTurn_ends {s : State} {c : Command} {sink : Option (BitVec 2)} (hp : s.phase = .busy c)
    (hs : s.slot = .go sink) (h : s.EndsAlone c ∨ sink ≠ none) :
    ∃ t, engineTurn s = .next t ∧ t.phase = .idle ∧ t.done = true := by
  rw [engineTurn_go hp hs]
  cases c with
  | csum =>
    rw [engineStepWith]
    cases hl : spanTooLong s with
    | true => exact ⟨_, runCsum_of_long hl, finish_phase _ _, finish_done _ _⟩
    | false => exact ⟨_, runCsum_of_fits hl, finish_phase _ _, finish_done _ _⟩
  | build =>
    rw [engineStepWith]
    cases hl : payloadTooLong s with
    | true => exact ⟨_, runBuildWith_of_long hl, finish_phase _ _, finish_done _ _⟩
    | false => exact ⟨_, runBuildWith_of_fits hl, finish_phase _ _, finish_done _ _⟩
  | send =>
    rw [engineStepWith]
    cases hl : payloadTooLong s with
    | true => exact ⟨_, runSendWith_of_long hl, finish_phase _ _, finish_done _ _⟩
    | false =>
      have hfits := payloadTooLong_eq_false.1 hl
      rcases h with (h | h) | h
      · exact absurd rfl h
      · omega
      · obtain ⟨code, rfl⟩ := Option.ne_none_iff_exists'.1 h
        exact ⟨_, runSendWith_answered code hl, finish_phase _ _, finish_done _ _⟩

/-- A SEND past its length check whose sink gives no answer stays as it is (42_segment_transmit.md R150). -/
theorem engineTurn_unanswered {s : State} (hp : s.phase = .busy .send) (hl : s.payloadLen.toNat ≤ 65495)
    (hs : s.slot.answers = false) : engineTurn s = .next s := by
  cases hslot : s.slot with
  | hold => exact engineTurn_hold hslot
  | go sink =>
    cases sink with
    | none => exact (engineTurn_go hp hslot).trans (runSendWith_silent (p := Config.params) (payloadTooLong_eq_false.2 hl))
    | some code => simp [hslot, EngineSlot.answers] at hs

/-- While BUSY the engine's part of a turn ends the command or leaves the state as it is; the latter only where its slot brings no answer,
and for a command that asks nothing of the sink only where the engine is not scheduled. -/
theorem engineTurn_ends_or_stays {s : State} {c : Command} (hp : s.phase = .busy c) :
    (∃ t, engineTurn s = .next t ∧ t.phase = .idle) ∨
    (s.slot.answers = false ∧ (s.EndsAlone c → s.slot = .hold) ∧ engineTurn s = .next s) := by
  cases hslot : s.slot with
  | hold => exact .inr ⟨rfl, fun _ => rfl, engineTurn_hold hslot⟩
  | go sink =>
    by_cases hen : s.EndsAlone c ∨ sink ≠ none
    · obtain ⟨t, ht, hidle, _⟩ := engineTurn_ends hp hslot hen
      exact .inl ⟨t, ht, hidle⟩
    · obtain ⟨halone, hsink⟩ := not_or.1 hen
      obtain rfl : sink = none := not_not.1 hsink
      obtain ⟨hc, hl⟩ := not_or.1 halone
      obtain rfl : c = .send := not_not.1 hc
      exact .inr ⟨rfl, fun h => absurd h halone,
        engineTurn_unanswered hp (Nat.le_of_not_lt hl) (by rw [hslot]; rfl)⟩

theorem resetWith_phase (p : Params) (cut : Option (Nat × BitVec 2)) (s : State) :
    (resetWith p cut s).phase = .idle := by
  unfold resetWith
  split
  · split <;> rfl
  · rfl

/-! ### A step that does not end the command -/

/-- A step from `s` to `t` that leaves `c` in progress: its payload length, TxLog, the frame and the results are as they were, and of the
schedule the turns after this one are left. -/
structure State.Waits (s t : State) (c : Command) : Prop where
  phase : t.phase = .busy c
  payloadLen : t.payloadLen = s.payloadLen
  schedule : t.schedule = restAfter (nextTurn s) s.schedule.tail
  txLog : t.txLog = s.txLog
  frame : t.frame = s.frame
  ipCsum : t.ipCsum = s.ipCsum
  tcpCsum : t.tcpCsum = s.tcpCsum
  frameLen : t.frameLen = s.frameLen
  csumResult : t.csumResult = s.csumResult

/-- A SEND that waits is as it was. -/
theorem State.Waits.stillSending {s t : State} (h : s.Waits t .send) : s.StillSending t :=
  ⟨h.phase, h.txLog, h.frame, h.ipCsum, h.tcpCsum, h.frameLen, h.csumResult⟩

/-- While BUSY a step is a bus error, a reset, or the engine's part in a state in which the command waits. -/
theorem step_waits_then_engine {s : State} {c : Command} (hp : s.phase = .busy c) :
    (∃ b f, (nextTurn s).host = .bus b ∧ busFault b = some f ∧ step s = .fault f) ∨
    ((nextTurn s).isReset = true ∧ ∃ t, step s = .next t ∧ t.phase = .idle) ∨
    ((nextTurn s).isReset = false ∧
      ∃ u, step s = engineTurn u ∧ s.Waits u c ∧ u.slot = (nextTurn s).engine) := by
  rcases step_busy hp with hf | ⟨cut, hc, e⟩ | ⟨hr, d, er, g, r, n, e⟩
  · exact .inl hf
  · exact .inr (.inl ⟨by rw [Turn.isReset, hc], _, e, resetWith_phase ..⟩)
  · refine .inr (.inr ⟨hr, _, e, ?_, rfl⟩)
    exact ⟨hp, rfl, rfl, rfl, rfl, rfl, rfl, rfl, rfl⟩

/-- While BUSY a step is a bus error, ends in IDLE, or leaves the command in progress; the last only in a turn that is no reset, brings no
answer, and for a command that asks nothing of the sink holds the engine. -/
theorem step_ends_or_waits {s : State} {c : Command} (hp : s.phase = .busy c) :
    (∃ f, step s = .fault f) ∨ (∃ t, step s = .next t ∧ t.phase = .idle) ∨
    ((nextTurn s).isReset = false ∧ (nextTurn s).engine.answers = false ∧
      (s.EndsAlone c → (nextTurn s).engine = .hold) ∧ ∃ t, step s = .next t ∧ s.Waits t c) := by
  rcases step_waits_then_engine hp with ⟨_, f, _, _, e⟩ | ⟨_, hend⟩ | ⟨hr, u, e, hw, hslot⟩
  · exact .inl ⟨f, e⟩
  · exact .inr (.inl hend)
  · rw [e]
    rcases engineTurn_ends_or_stays hw.phase with hend | ⟨hans, halone, hstay⟩
    · exact .inr (.inl hend)
    · rw [hslot] at hans halone
      simp only [State.EndsAlone, hw.payloadLen] at halone
      exact .inr (.inr ⟨hr, hans, halone, u, hstay, hw⟩)

/-- A SEND past its length check, in a turn that is no reset and brings no answer, meets a bus error or waits. -/
theorem step_unanswered {s : State} (hp : s.phase = .busy .send) (hl : s.payloadLen.toNat ≤ 65495)
    (hr : (nextTurn s).isReset = false) (ha : (nextTurn s).engine.answers = false) :
    (∃ b f, (nextTurn s).host = .bus b ∧ busFault b = some f ∧ step s = .fault f) ∨
      ∃ t, step s = .next t ∧ s.Waits t .send := by
  rcases step_waits_then_engine hp with hf | ⟨hr', _⟩ | ⟨_, u, e, hw, hslot⟩
  · exact .inl hf
  · rw [hr] at hr'
    cases hr'
  · have hstay := engineTurn_unanswered hw.phase (by rwa [hw.payloadLen]) (by rwa [hslot])
    exact .inr ⟨u, e.trans hstay, hw⟩

/-! ### The turns still to come -/

/-- A measure of the turns a schedule still holds for a command in progress: a WAIT counts the slots given for its reads twice, and a read
that holds the engine once more, since the read after it is scheduled at the latest when no slot is left (log 13). -/
def Turn.weight (t : Turn) : Nat :=
  match t.host with
  | .wait later => 2 * later.length + (if t.engine = .hold then 2 else 1)
  | .quiet => 1
  | .bus _ => 1
  | .reset _ => 1

/-- The measure of a schedule. -/
def turnsLeft (q : List Turn) : Nat := (q.map Turn.weight).sum

/-- A turn past which the command is still in progress lowers the measure, a WAIT's last slot because the engine is scheduled after it. -/
theorem turnsLeft_restAfter {t : Turn} {rest : List Turn} (h : t.host = .wait [] → t.engine = .hold) :
    turnsLeft (restAfter t rest) < turnsLeft (t :: rest) := by
  obtain ⟨host, slot⟩ := t
  cases host with
  | quiet => simp [restAfter, turnsLeft, Turn.weight]
  | bus b => simp [restAfter, turnsLeft, Turn.weight]
  | reset cut => simp [restAfter, turnsLeft, Turn.weight]
  | wait later =>
    cases later with
    | nil =>
      obtain rfl : slot = .hold := h rfl
      simp [restAfter, turnsLeft, Turn.weight, nextWait, idleTurn]
    | cons z later =>
      simp only [restAfter, turnsLeft, Turn.weight, nextWait, List.map_cons, List.sum_cons, List.tail_cons,
        List.headD_cons, List.length_cons]
      split_ifs <;> omega

/-- Past a turn that is no reset and brings no answer, the premise about the sink asks of the rest what it asked of the whole. -/
theorem endsSend_restAfter {t : Turn} {rest : List Turn} (hr : t.isReset = false) (ha : t.engine.answers = false) :
    endsSend (restAfter t rest) = endsSend (t :: rest) := by
  obtain ⟨host, slot⟩ := t
  change slot.answers = false at ha
  cases host with
  | quiet => simp [restAfter, endsSend, ha]
  | bus b => simp [restAfter, endsSend, ha]
  | reset cut => cases hr
  | wait later =>
    cases later with
    | nil =>
      have silent : idleTurn.engine.answers = false := rfl
      simp [restAfter, endsSend, nextWait, silent, ha]
    | cons z later => simp [restAfter, endsSend, nextWait, ha]

/-- The first turn of a schedule that brings neither an answer nor a reset. -/
theorem head_of_endsSend_eq_false {t : Turn} {rest : List Turn} (h : endsSend (t :: rest) = false) :
    t.isReset = false ∧ t.engine.answers = false := by
  obtain ⟨host, slot⟩ := t
  cases host with
  | reset cut => cases h
  | quiet => exact ⟨rfl, (Bool.or_eq_false_iff.1 h).1⟩
  | bus b => exact ⟨rfl, (Bool.or_eq_false_iff.1 h).1⟩
  | wait later => exact ⟨rfl, (Bool.or_eq_false_iff.1 h).1⟩

/-- A schedule that brings neither an answer nor a reset: its next turn brings neither, and what is left after it does not. -/
theorem endsSend_eq_false {s : State} (h : endsSend s.schedule = false) :
    (nextTurn s).isReset = false ∧ (nextTurn s).engine.answers = false ∧
      endsSend (restAfter (nextTurn s) s.schedule.tail) = false := by
  cases hq : s.schedule with
  | nil => simp [nextTurn, hq, idleTurn, Turn.isReset, EngineSlot.answers, restAfter, endsSend]
  | cons t rest =>
    have hn : nextTurn s = t := by simp [nextTurn, hq]
    rw [hq] at h
    obtain ⟨hr, ha⟩ := head_of_endsSend_eq_false h
    exact ⟨hn ▸ hr, hn ▸ ha, by rw [hn, List.tail_cons, endsSend_restAfter hr ha, h]⟩

/-- A turn that does not end the command leaves fewer turns and the same premise. -/
theorem rest_lowers_turnsLeft {s : State} {c : Command} (h : s.EndsAlone c ∨ endsSend s.schedule = true)
    (hr : (nextTurn s).isReset = false) (ha : (nextTurn s).engine.answers = false)
    (hhold : s.EndsAlone c → (nextTurn s).engine = .hold) :
    turnsLeft (restAfter (nextTurn s) s.schedule.tail) < turnsLeft s.schedule ∧
      (s.EndsAlone c ∨ endsSend (restAfter (nextTurn s) s.schedule.tail) = true) := by
  cases hq : s.schedule with
  | nil =>
    rw [nextTurn, hq] at hhold
    rw [hq] at h
    rcases h with h | h
    · cases hhold h
    · cases h
  | cons t rest =>
    obtain rfl : nextTurn s = t := by rw [nextTurn, hq, List.headD_cons]
    rw [hq] at h
    rw [List.tail_cons, endsSend_restAfter hr ha]
    refine ⟨turnsLeft_restAfter fun hwait => ?_, h⟩
    rcases h with h | h
    · exact hhold h
    · simp [endsSend, hwait, ha] at h

/-! ### Runs -/

/-- A run from the state comes to IDLE, or a bus error of the host stops it. -/
def State.RunEnds (s : State) : Prop :=
  ∃ k, (∃ f, runSteps k s = .fault f) ∨ ∃ t, runSteps k s = .next t ∧ t.phase = .idle

theorem State.RunEnds.of_fault {s : State} {f : Fault} (h : step s = .fault f) : s.RunEnds :=
  ⟨1, .inl ⟨f, (runSteps_one s).trans h⟩⟩

theorem State.RunEnds.of_idle {s : State} (h : s.phase = .idle) : s.RunEnds :=
  ⟨0, .inr ⟨s, rfl, h⟩⟩

theorem State.RunEnds.of_step {s t : State} (hs : step s = .next t) (h : t.RunEnds) : s.RunEnds := by
  obtain ⟨k, hk⟩ := h
  refine ⟨k + 1, ?_⟩
  rwa [runSteps_succ, hs, andThen_next]

/-- Every run of a command that asks nothing of the sink ends, and of a SEND whose schedule brings an answer or a reset: by induction on
the turns left, each step that does not end the command lowering their number and keeping the premise. -/
theorem runEnds_of_busy {s : State} {c : Command} (hp : s.phase = .busy c)
    (h : s.EndsAlone c ∨ endsSend s.schedule = true) : s.RunEnds := by
  induction hn : turnsLeft s.schedule using Nat.strong_induction_on generalizing s with
  | _ n ih =>
  subst hn
  rcases step_ends_or_waits hp with ⟨f, e⟩ | ⟨t, e, hidle⟩ | ⟨hr, ha, hhold, t, e, hw⟩
  · exact .of_fault e
  · exact .of_step e (.of_idle hidle)
  · obtain ⟨hlower, hpremise⟩ := rest_lowers_turnsLeft h hr ha hhold
    rw [← hw.schedule] at hlower hpremise
    refine .of_step e (ih _ hlower hw.phase ?_ rfl)
    simpa only [State.EndsAlone, hw.payloadLen] using hpremise

/-- A SEND that is as it was stays so over a state that is as it was. -/
theorem State.StillSending.trans {s t u : State} (h : s.StillSending t) (h' : t.StillSending u) : s.StillSending u := by
  obtain ⟨_, hlog, hframe, hip, htcp, hlen, hres⟩ := h
  obtain ⟨hp', hlog', hframe', hip', htcp', hlen', hres'⟩ := h'
  exact ⟨hp', hlog'.trans hlog, hframe'.trans hframe, hip'.trans hip, htcp'.trans htcp, hlen'.trans hlen,
    hres'.trans hres⟩

/-- A SEND past its length check whose schedule brings neither an answer nor a reset waits in every run: each step keeps the premise. -/
theorem runSteps_stillSending {s : State} (hp : s.phase = .busy .send) (hl : s.payloadLen.toNat ≤ 65495)
    (h : endsSend s.schedule = false) (k : Nat) :
    (∃ f, runSteps k s = .fault f) ∨ ∃ t, runSteps k s = .next t ∧ s.StillSending t := by
  induction k generalizing s with
  | zero => exact .inr ⟨s, rfl, hp, rfl, rfl, rfl, rfl, rfl, rfl⟩
  | succ k ih =>
    obtain ⟨hr, ha, hrest⟩ := endsSend_eq_false h
    rcases step_unanswered hp hl hr ha with ⟨_, f, _, _, e⟩ | ⟨t, e, hw⟩
    · exact .inl ⟨f, by rw [runSteps_succ, e]; rfl⟩
    · rw [runSteps_succ, e, andThen_next]
      refine (ih hw.phase (by rwa [hw.payloadLen]) (by rwa [hw.schedule])).imp id ?_
      rintro ⟨u, hu, hstill⟩
      exact ⟨u, hu, hw.stillSending.trans hstill⟩

end Sys2Proof.Machine
end

section
/-! SUPPORT. The statement on how a command ends. -/

open Sys2Proof Sys2Proof.Machine

/-- Settles O60, from the engine step that is enabled, the step that is not, and the two kinds of runs. -/
theorem enabledEngineStepEndsTheCommand : Obligations.EnabledEngineStepEndsTheCommand := by
  refine ⟨fun s c sink hp hs => ⟨fun h => engineTurn_ends hp hs (or_assoc.2 h), ?_⟩, fun s hp hl hr ha => ?_,
    fun s c hp h => runEnds_of_busy hp (or_assoc.2 h), fun s hp hl h k => runSteps_stillSending hp hl h k⟩
  · rintro rfl hl rfl
    exact engineTurn_unanswered hp hl (by rw [hs]; rfl)
  · exact (step_unanswered hp hl hr ha).imp id fun ⟨t, e, hw⟩ => ⟨t, e, hw.stillSending⟩

end

section
/-! SUPPORT. The address map by offset, and what a read and a data-window write do to the bytes of the two buffers. -/

namespace Sys2Proof.Machine

/-! ### The address map -/

theorem regionOf_register {a : Nat} (h : a < 0x40) : regionOf a = .reg (regAt (a / 4)) := if_pos h

theorem regionOf_gap {a : Nat} (h : 0x40 ≤ a) (h' : a < 0x10000) : regionOf a = .unmapped := by
  rw [regionOf, if_neg (by omega), if_pos h']

theorem regionOf_above {a : Nat} (h : 0x30000 ≤ a) : regionOf a = .unmapped := by
  rw [regionOf, if_neg (by omega), if_neg (by omega), if_neg (by omega), if_neg (by omega)]

/-- The 18-bit offset from the base names the block (20_memory.md R50). -/
theorem blockOffset_add (base : Nat) (o : BitVec 18) : blockOffset base (base + o.toNat) = some o := by
  have ho := o.isLt
  rw [blockOffset, if_pos (by omega), Nat.add_sub_cancel_left, BitVec.ofNat_toNat, BitVec.setWidth_eq]

theorem blockOffset_outside {base a : Nat} (h : a < base ∨ base + 2 ^ 18 ≤ a) : blockOffset base a = none :=
  if_neg (by omega)

/-! ### Reads -/

/-- An aligned read at a mapped offset passes the bus. -/
theorem busTurn_read {o : BitVec 18} (v : Word) (s : State) (h4 : o.toNat % 4 = 0) (hu : regionOf o.toNat ≠ .unmapped) :
    busTurn { wr := false, addr := o, size := 2, wdata := v } s = engineTurn (hostRead o.toNat s) :=
  busTurn_of_ok (busFault_eq_none.2 ⟨rfl, h4, hu⟩)

theorem readValue_ctrl (s : State) : readValue Reg.ctrl.offset s = 0 := by
  simp only [readValue, regionOf_offset]

theorem readValue_status (s : State) : readValue Reg.status.offset s = statusWord s := by
  simp only [readValue, regionOf_offset]

theorem readValue_input (r : InputReg) (s : State) : readValue (Reg.input r).offset s = readInput s r := by
  simp only [readValue, regionOf_offset]

/-- In IDLE a result register reads its stored value (10_state.md R33). -/
theorem readValue_result {s : State} (r : ResultReg) (h : s.phase = .idle) :
    readValue (Reg.result r).offset s = readResult s r := by
  simp only [readValue, regionOf_offset, not_busy_iff.2 h, Bool.false_eq_true, if_false]

theorem readValue_data {a i : Nat} (s : State) (h : regionOf a = .data i) :
    readValue a s = readBufferWord (fun j => readByte s.data (s.draws + (j - i)) j) i := by
  simp only [readValue, h]

theorem readValue_frame {a i : Nat} {s : State} (h : regionOf a = .frame i) (hp : s.phase = .idle) :
    readValue a s = readBufferWord (fun j => frameWindowByte s (s.draws + (j - i)) j) i := by
  simp only [readValue, h, not_busy_iff.2 hp, Bool.false_eq_true, if_false]

/-- Byte k of a data word is the data byte at its index, read with the free byte of number k (20_memory.md R54). -/
theorem readValue_data_byte {a i k : Nat} (s : State) (h : regionOf a = .data i) (hk : k < 4) :
    (readValue a s).extractLsb' (24 - 8 * k) 8 = readByte s.data (s.draws + k) (i + k) := by
  rw [readValue_data s h, readBufferWord_byte _ _ hk, Nat.add_sub_cancel_left]

/-- Byte k of a frame word in IDLE is the frame byte at its index, read with the free byte of number k (20_memory.md R54). -/
theorem readValue_frame_byte {a i k : Nat} {s : State} (h : regionOf a = .frame i) (hp : s.phase = .idle) (hk : k < 4) :
    (readValue a s).extractLsb' (24 - 8 * k) 8 = frameWindowByte s (s.draws + k) (i + k) := by
  rw [readValue_frame h hp, readBufferWord_byte _ _ hk, Nat.add_sub_cancel_left]

theorem frameWindowByte_inside {s : State} {d j : Nat} (h : j < s.frameLen.toNat) :
    frameWindowByte s d j = readByte s.frame d j := if_pos h

theorem frameWindowByte_outside {s : State} {d j : Nat} (h : s.frameLen.toNat ≤ j) :
    frameWindowByte s d j = Config.freeByte d := if_neg (by omega)

/-! ### Words of listed bytes -/

/-- The memory lists the four bytes at i to i+3. -/
def Memory.Lists (m : Memory) (i : Nat) (b0 b1 b2 b3 : Byte) : Prop :=
  Memory.get? m i = some b0 ∧ Memory.get? m (i + 1) = some b1 ∧ Memory.get? m (i + 2) = some b2 ∧
    Memory.get? m (i + 3) = some b3

theorem readValue_data_word {a i : Nat} {b0 b1 b2 b3 : Byte} {s : State} (h : regionOf a = .data i)
    (hm : Memory.Lists s.data i b0 b1 b2 b3) : readValue a s = wordOf b0 b1 b2 b3 := by
  obtain ⟨h0, h1, h2, h3⟩ := hm
  rw [readValue_data s h, readBufferWord, readByte_of_get? h0, readByte_of_get? h1, readByte_of_get? h2,
    readByte_of_get? h3]

/-- Below FRAME_LEN the frame window reads as the data window does. -/
theorem readValue_frame_word {a i : Nat} {b0 b1 b2 b3 : Byte} {s : State} (h : regionOf a = .frame i)
    (hp : s.phase = .idle) (hl : i + 3 < s.frameLen.toNat) (hm : Memory.Lists s.frame i b0 b1 b2 b3) :
    readValue a s = wordOf b0 b1 b2 b3 := by
  obtain ⟨h0, h1, h2, h3⟩ := hm
  rw [readValue_frame h hp, readBufferWord, frameWindowByte_inside (by omega), frameWindowByte_inside (by omega),
    frameWindowByte_inside (by omega), frameWindowByte_inside hl, readByte_of_get? h0, readByte_of_get? h1,
    readByte_of_get? h2, readByte_of_get? h3]

/-- A word's bytes stand at consecutive indices, most significant first (20_memory.md R54). -/
theorem lists_setBytes_be32 (m : Memory) (i : Nat) (v : Word) :
    Memory.Lists (Memory.setBytes m i (be32 v)) i (v.extractLsb' 24 8) (v.extractLsb' 16 8) (v.extractLsb' 8 8)
      (v.extractLsb' 0 8) := by
  have written (k : Nat) (hk : k < 4) : Memory.get? (Memory.setBytes m i (be32 v)) (i + k) = (be32 v)[k]? :=
    get?_setBytes_inside hk
  exact ⟨written 0 (by omega), written 1 (by omega), written 2 (by omega), written 3 (by omega)⟩

/-- In IDLE a data-window write is the store alone (20_memory.md R56). -/
theorem hostWrite_data {a i : Nat} {s : State} (v : Word) (h : regionOf a = .data i) (hp : s.phase = .idle) :
    hostWrite a v s = .next (storeData i v s) := by
  rw [hostWrite_store v s (by simp [h]), h, hostStore, whenIdle_idle _ hp, engineTurn_idle (by simpa using hp)]

end Sys2Proof.Machine
end

section
/-! SUPPORT. The statements on the address map, the buffer words, the reads and the turns. -/

open Sys2Proof Sys2Proof.Machine

/-- Settles O44: the write lists the word's four bytes, and a word of listed bytes is put together from the top bit down. -/
theorem bufferWordsAreBigEndian : Obligations.BufferWordsAreBigEndian := by
  refine ⟨fun a i v s ha hp => ?_, fun a i b0 b1 b2 b3 s h => ?_⟩
  · have hm := lists_setBytes_be32 s.data i v
    refine ⟨_, hostWrite_data v ha hp, (readValue_data_word ha hm).trans (wordOf_be32 v), ?_⟩
    obtain ⟨h0, h1, h2, h3⟩ := hm
    exact ⟨h0, h1, h2, h3, fun j hj => get?_setBytes_outside hj⟩
  · have hw : readValue a s = wordOf b0 b1 b2 b3 := by
      rcases h with ⟨ha, hm⟩ | ⟨ha, hp, hl, hm⟩
      · exact readValue_data_word ha hm
      · exact readValue_frame_word ha hp hl hm
    rw [hw, wordOf_toNat]
    omega

/-- Settles O6, from the turn at the head of the schedule, and for a transaction from what the bus lets through. -/
theorem quietTurnIsTheEngineAlone : Obligations.QuietTurnIsTheEngineAlone := by
  refine ⟨fun _ _ _ h => step_quietTurn h, fun _ h => step_of_nil h, fun _ h => engineTurn_idle h,
    fun _ _ _ _ h => step_of_schedule h, fun b s hf => ⟨fun hw => ?_, fun hr => ⟨?_, hostRead_rdata s _⟩⟩⟩
  · rw [busTurn_of_ok hf, if_pos hw]
  · rw [busTurn_of_ok hf, hr, if_neg Bool.false_ne_true]

/-- Settles O41, region by region; a window offset is its start and an index. -/
theorem addressMapIsAsLaidOut : Obligations.AddressMapIsAsLaidOut := by
  refine ⟨regionOf_offset, fun a => ⟨fun h => ⟨_, regionOf_register h⟩, regionOf_gap, fun h h' => ?_, fun h h' => ?_,
    regionOf_above⟩, fun base a => ⟨blockOffset_add base, blockOffset_outside⟩⟩
  · obtain ⟨i, rfl⟩ := Nat.exists_eq_add_of_le h
    rw [regionOf_data (by omega), Nat.add_sub_cancel_left]
  · obtain ⟨i, rfl⟩ := Nat.exists_eq_add_of_le h
    rw [regionOf_frame (by omega), Nat.add_sub_cancel_left]

/-- Settles O45: the read passes the bus. -/
theorem readsHaveNoSideEffect : Obligations.ReadsHaveNoSideEffect :=
  fun _ s h4 hu v => busTurn_read v s h4 hu

/-- Settles O46: the registers by the place each offset names, the windows byte by byte. -/
theorem readsInIdle : Obligations.ReadsInIdle := by
  intro s hp
  have result (r : ResultReg) := congrArg BitVec.toNat (readValue_result r hp)
  have widen (v : Half) : (v.setWidth 32).toNat = v.toNat := BitVec.toNat_setWidth_of_le (by omega)
  refine ⟨readValue_ctrl s, readValue_status s, fun r => readValue_input r s, (result .csumResult).trans (widen _),
    (result .ipCsum).trans (widen _), (result .tcpCsum).trans (widen _), (result .frameLen).trans (widen _),
    fun _ _ => frameWindowByte_outside, fun a i k hk => ⟨fun ha => ?_, fun ha => ?_⟩⟩
  · rw [readValue_data_byte s ha hk]
    exact ⟨fun _ => readByte_of_get?, readByte_of_unlisted⟩
  · rw [readValue_frame_byte ha hp hk]
    refine ⟨fun b hl hb => ?_, fun hl hb => ?_, frameWindowByte_outside⟩
    · rw [frameWindowByte_inside hl, readByte_of_get? hb]
    · rw [frameWindowByte_inside hl, readByte_of_unlisted hb]

end

section
/-! SUPPORT. CTRL words and commands: the two fields a word is put together from, the commands they fix, and the row of the opcode table
a word fits. -/

namespace Sys2Proof

/-- A CTRL word is put together again from its two fields (30_encoding.md R70). -/
theorem ignField_append_cmdField (v : Word) : ignField v ++ cmdField v = v :=
  (BitVec.extractLsb'_append_extractLsb'_eq_extractLsb' (by omega)).trans BitVec.extractLsb'_eq_self

/-! ### The decoder -/

/-- The decoder takes CMD as it stands in the word (30_encoding.md R76). -/
theorem decodeCtrl_cmd (v : Word) : (decodeCtrl v).cmd = cmdField v := by
  unfold decodeCtrl
  split_ifs with h0 h1 h2 h3
  · exact h0.symm
  · exact h1.symm
  · exact h2.symm
  · exact h3.symm
  · rfl

/-- The decoder drops no bit above CMD. -/
theorem decodeCtrl_ign (v : Word) : (decodeCtrl v).ign = ignField v := by
  unfold decodeCtrl
  split_ifs <;> rfl

/-- A CMD value that is none of 0 to 3 has its bit 2 set. -/
theorem cmd_bit2_of_ne : ∀ c : BitVec 3, c ≠ 0 → c ≠ 1 → c ≠ 2 → c ≠ 3 → c.getLsbD 2 = true := by decide

/-- Every word decodes to a command. -/
theorem decodeCtrl_wellFormed (v : Word) : (decodeCtrl v).WellFormed := by
  unfold decodeCtrl
  split_ifs with h0 h1 h2 h3
  · rfl
  · rfl
  · rfl
  · rfl
  · exact cmd_bit2_of_ne _ h0 h1 h2 h3

/-- The word of the command a word decodes to is that word. -/
theorem encode_decodeCtrl (v : Word) : encode (decodeCtrl v) = v := by
  rw [encode, decodeCtrl_cmd, decodeCtrl_ign, ignField_append_cmdField]

/-- The two fields of the word of a command are the command's own. -/
theorem fields_encode (i : Instr) : Laws.CommandWord.Statement i := ⟨cmdField_append _ _, ignField_append _ _⟩

/-- The word of a well-formed command decodes to it: CMD picks the constructor, whose ignored bits are those of the word. -/
theorem decodeCtrl_encode (i : Instr) (h : i.WellFormed) : decodeCtrl (encode i) = i := by
  obtain ⟨hcmd, hign⟩ := fields_encode i
  rw [decodeCtrl, hcmd, hign]
  cases i with
  | nop g => rfl
  | csum g => rfl
  | build g => rfl
  | send g => rfl
  | reserved c g =>
    have ne (k : BitVec 3) (hk : k.getLsbD 2 = false) : c ≠ k := fun e => by
      have hc : c.getLsbD 2 = true := h
      rw [e, hk] at hc
      cases hc
    exact (if_neg (ne 0 rfl)).trans ((if_neg (ne 1 rfl)).trans ((if_neg (ne 2 rfl)).trans (if_neg (ne 3 rfl))))

/-! ### The opcode table -/

/-- CMD of the match word of the row a CMD value belongs to: the reserved values share one row (spec/opcode_table.json). -/
def rowCmd (c : BitVec 3) : BitVec 3 := if c.getLsbD 2 then 4 else c

/-- The match word of a well-formed command's row. -/
theorem tableMatch_eq {i : Instr} (h : i.WellFormed) : tableMatch i = (0 : BitVec 29) ++ rowCmd i.cmd := by
  cases i with
  | reserved c g => rw [show rowCmd (Instr.reserved c g).cmd = 4 from if_pos h]; rfl
  | _ => simp only [tableMatch, Instr.cmd]; decide

/-- Words with no bit above CMD are equal where their CMD is. -/
theorem zero_append_inj {c c' : BitVec 3} : (0 : BitVec 29) ++ c = (0 : BitVec 29) ++ c' ↔ c = c' :=
  ⟨fun h => by simpa only [cmdField_append] using congrArg cmdField h, congrArg _⟩

/-- A mask on CMD alone keeps CMD's masked bits alone. -/
theorem and_zero_append (v : Word) (m : BitVec 3) :
    v &&& ((0 : BitVec 29) ++ m) = (0 : BitVec 29) ++ (cmdField v &&& m) := by
  conv_lhs => rw [← ignField_append_cmdField v]
  rw [BitVec.and_append, BitVec.ofNat_eq_ofNat, BitVec.and_zero]

/-- A row whose match and mask words have no bit above CMD fits a word exactly when it fits the word's CMD. -/
theorem fits_iff_of_cmd {m k : BitVec 3} (v : Word) (h : ∀ c, c &&& m = k ↔ k = rowCmd c) :
    v &&& ((0 : BitVec 29) ++ m) = (0 : BitVec 29) ++ k ↔
      (0 : BitVec 29) ++ k = (0 : BitVec 29) ++ rowCmd (cmdField v) := by
  rw [and_zero_append, zero_append_inj, zero_append_inj]
  exact h _

/-- A word fits the row of a command exactly when the row is that of the word's CMD. -/
theorem fits_row_iff (i : Instr) (v : Word) :
    v &&& tableMask i = tableMatch i ↔ tableMatch i = (0 : BitVec 29) ++ rowCmd (cmdField v) := by
  cases i with
  | nop g => exact fits_iff_of_cmd (m := 7) (k := 0) v (by decide)
  | csum g => exact fits_iff_of_cmd (m := 7) (k := 1) v (by decide)
  | build g => exact fits_iff_of_cmd (m := 7) (k := 2) v (by decide)
  | send g => exact fits_iff_of_cmd (m := 7) (k := 3) v (by decide)
  | reserved c g => exact fits_iff_of_cmd (m := 4) (k := 4) v (by decide)

end Sys2Proof

namespace Sys2Proof.Machine

/-- Two words with the same CMD run as the same command: no meaning reads the ignored bits (30_encoding.md R71). -/
theorem exec_decodeCtrl_congr {v v' : Word} (h : cmdField v = cmdField v') (s : State) :
    exec (decodeCtrl v) s = exec (decodeCtrl v') s := by
  unfold decodeCtrl
  rw [h]
  split_ifs <;> rfl

end Sys2Proof.Machine
end

section
/-! SUPPORT. The statements on CTRL words, NOP and the sink's response codes. -/

open Sys2Proof Sys2Proof.Machine

/-- Settles O1. -/
theorem decodeOfEncodeIsIdentity : Obligations.DecodeOfEncodeIsIdentity := decodeCtrl_encode

/-- Settles O2: a word fits a row exactly when its CMD belongs to it, and the decoder keeps CMD. -/
theorem everyWordIsTheCommandOfItsTableRow : Obligations.EveryWordIsTheCommandOfItsTableRow := by
  intro v
  have hwf := decodeCtrl_wellFormed v
  have hrow : tableMatch (decodeCtrl v) = (0 : BitVec 29) ++ rowCmd (cmdField v) := by
    rw [tableMatch_eq hwf, decodeCtrl_cmd]
  exact ⟨hwf, encode_decodeCtrl v, (fits_row_iff _ v).2 hrow,
    fun i _ hfit => ((fits_row_iff i v).1 hfit).trans hrow.symm⟩

/-- Settles O3: a CTRL turn runs the command its word decodes to, and CMD alone decides what that command does. -/
theorem reservedBitsNeverChangeTheCommand : Obligations.ReservedBitsNeverChangeTheCommand := by
  have same_cmd (v v' : Word) (slot : EngineSlot) (rest : List Turn) (s : State) (h : cmdField v = cmdField v') :
      step { s with schedule := ctrlTurn v slot :: rest } = step { s with schedule := ctrlTurn v' slot :: rest } := by
    rw [step_ctrlTurn rfl, step_ctrlTurn rfl]
    exact exec_decodeCtrl_congr h _
  exact ⟨same_cmd, fun slot rest s => same_cmd _ _ slot rest s (by decide)⟩

/-- Settles O4: the words are those of the commands, and only a list of one word is a command. -/
theorem wordsOfTheCommandMapDecode : Obligations.WordsOfTheCommandMapDecode :=
  ⟨decodeCtrl_encode (.nop 0) rfl, decodeCtrl_encode (.csum 0) rfl, decodeCtrl_encode (.build 0) rfl,
    decodeCtrl_encode (.send 0) rfl, decodeCtrl_encode (.reserved 4 0) rfl, decodeCtrl_encode (.reserved 7 0) rfl,
    decodeCtrl_encode (.csum 1) rfl, decodeCtrl_encode (.send 0x1FFFFFFF) rfl, fun _ => rfl, rfl, fun _ _ _ => rfl⟩

/-- Settles O7: in IDLE neither NOP nor the engine does anything, and while BUSY the write is dropped. -/
theorem nopLeavesTheStateUnchanged : Obligations.NopLeavesTheStateUnchanged :=
  fun g _ => ⟨fun hp => (exec_idle (.nop g) hp).trans (engineTurn_idle hp),
    fun _ hp hs => (exec_busy (.nop g) hp).trans (engineTurn_hold hs)⟩

/-- Settles O14, code by code. -/
theorem sinkResponseGivesTheErrorCode : Obligations.SinkResponseGivesTheErrorCode := by
  unfold Obligations.SinkResponseGivesTheErrorCode
  decide

end

section
/-! SUPPORT. The frame's two headers read back, and the data-buffer bytes a command reads. -/

namespace Sys2Proof.Machine

/-- The frame begins with the IP header. -/
theorem frame_take_ipHdr (x : Operands) : (frameOf x).take 20 = ipHdrFinal x := by
  rw [frameOf, List.append_assoc]
  exact List.take_left' (ipHdrFinal_length x)

/-- The TCP header follows the IP header. -/
theorem frame_drop_take_tcpHdr (x : Operands) : ((frameOf x).drop 20).take 20 = tcpHdrFinal x := by
  rw [frameOf, List.append_assoc, List.drop_left' (ipHdrFinal_length x)]
  exact List.take_left' (tcpHdrFinal_length x)

/-- The total length of a legal frame is not cut to 16 bits (41_header_encoders.md R121). -/
theorem ipTotalLength_toNat {x : Operands} (h : x.Legal) : (ipTotalLength x.len).toNat = 40 + x.len := by
  have : x.len ≤ 65495 := h
  rw [ipTotalLength, BitVec.toNat_ofNat]
  omega

/-- Byte k of a span is the listed byte at its index, or the free byte of number k after the draws before (10_state.md R35). -/
theorem readSpan_byte (m : Memory) (d i : Nat) {n k : Nat} (h : k < n) :
    (∀ b, Memory.get? m (i + k) = some b → (readSpan m d i n)[k]? = some b) ∧
    (Memory.get? m (i + k) = none → (readSpan m d i n)[k]? = some (Config.freeByte (d + k))) := by
  rw [readSpan_getElem? h]
  exact ⟨fun b hb => by rw [readByte_of_get? hb], fun hb => by rw [readByte_of_unlisted hb]⟩

end Sys2Proof.Machine
end

section
/-! SUPPORT. The statements on the headers of a frame and on the operands. -/

open Sys2Proof Sys2Proof.Machine

/-- Settles O11, from the bytes of a span. -/
theorem operandsAreRegistersAndDataBytes : Obligations.OperandsAreRegistersAndDataBytes := by
  intro s
  refine ⟨rfl, readSpan_length .., readSpan_length .., fun k hk => readSpan_byte _ _ _ hk, fun k hk => ?_,
    fun h => ?_, fun h => ?_⟩
  · have hbyte := readSpan_byte s.data s.draws 0 hk
    rwa [Nat.zero_add] at hbyte
  · rw [spanBytes, spanLength, h]; rfl
  · rw [payloadBytes, payloadLength, h]; rfl

/-- Settles O34: the frame's first twenty bytes are the IP header, field by field. -/
theorem ipHeaderDecodesBack : Obligations.IpHeaderDecodesBack := by
  rintro x hx _ rfl
  rw [frame_take_ipHdr]
  exact ⟨rfl, rfl, (be16_toNat _).trans (ipTotalLength_toNat hx), be16_toNat _, rfl, rfl, rfl, rfl, be16_toNat _,
    wordOf_be32 _, wordOf_be32 _⟩

/-- Settles O35: the frame's bytes 20 to 39 are the TCP header, field by field. -/
theorem tcpHeaderDecodesBack : Obligations.TcpHeaderDecodesBack := by
  rintro x _ rfl
  rw [frame_drop_take_tcpHdr]
  exact ⟨be16_toNat _, be16_toNat _, wordOf_be32 _, wordOf_be32 _, rfl, rfl, be16_toNat _, be16_toNat _, rfl, rfl⟩

end

section
/-! SUPPORT. Host scripts: the offsets of the two windows, the writes of a LOAD and the bytes they leave, and the reads of a WAIT. -/

namespace Sys2Proof.Machine

/-! ### Targets -/

/-- An index inside the data buffer is not cut by the 18-bit offset (30_encoding.md R77). -/
theorem data_offset_toNat {i : Nat} (h : i < 65536) : (Target.data i).offset.toNat = 0x10000 + i := by
  rw [Target.offset, BitVec.toNat_ofNat]
  omega

/-- An index inside the frame buffer is not cut by the 18-bit offset (30_encoding.md R77). -/
theorem frame_offset_toNat {i : Nat} (h : i < 65536) : (Target.frame i).offset.toNat = 0x20000 + i := by
  rw [Target.offset, BitVec.toNat_ofNat]
  omega

/-- In IDLE a turn that writes a word at an aligned index of the data window is the store alone. -/
theorem step_dataWrite {s : State} {i : Nat} {v : Word} {slot : EngineSlot} {rest : List Turn} (hi : i < 65536)
    (h4 : i % 4 = 0) (hp : s.phase = .idle) (h : s.schedule = ⟨memWrite (Target.data i).offset v, slot⟩ :: rest) :
    step s = .next (storeData i v { s with schedule := rest, slot := slot }) := by
  have ho := data_offset_toNat hi
  have hr : regionOf (Target.data i).offset.toNat = .data i := by rw [ho, regionOf_data hi]
  have hbus := busTurn_write v { s with schedule := rest, slot := slot } (o := (Target.data i).offset) (by omega) (by simp [hr])
  exact (step_of_schedule h).trans (hbus.trans (hostWrite_data v hr hp))

/-! ### LOAD -/

/-- The byte a LOAD writes k places on: its k-th byte, or 0 past the last (30_encoding.md R78). -/
theorem takeD_getElem? {n k : Nat} (bytes : List Byte) (h : k < n) :
    (bytes.takeD n 0)[k]? = some (bytes.getD k 0) := by
  induction n generalizing k bytes with
  | zero => omega
  | succ n ih =>
    cases k with
    | zero => cases bytes <;> rfl
    | succ k =>
      rw [List.takeD, List.getElem?_cons_succ, ih _ (by omega)]
      cases bytes <;> rfl

/-- The word of the first four bytes of a LOAD, bytes past the last taken as 0. -/
def firstWord (bytes : List Byte) : Word :=
  wordOf (bytes.getD 0 0) (bytes.getD 1 0) (bytes.getD 2 0) (bytes.getD 3 0)

/-- A LOAD of some bytes is the write of its first word, then the LOAD of the bytes left. -/
theorem loadActs_of_ne_nil (i : Nat) {bytes : List Byte} (h : bytes ≠ []) :
    loadActs i bytes = memWrite (Target.data i).offset (firstWord bytes) :: loadActs (i + 4) (bytes.drop 4) := by
  match bytes with
  | [] => exact absurd rfl h
  | [a] => rfl
  | [a, b] => rfl
  | [a, b, c] => rfl
  | a :: b :: c :: d :: rest => rfl

/-- The bytes of the first word and of the words after it are the bytes of the LOAD. -/
theorem firstWord_bytes (n : Nat) (bytes : List Byte) :
    be32 (firstWord bytes) ++ (bytes.drop 4).takeD n 0 = bytes.takeD (n + 4) 0 := by
  rw [firstWord, be32_wordOf]
  match bytes with
  | [] => rfl
  | [a] => rfl
  | [a, b] => rfl
  | [a, b, c] => rfl
  | a :: b :: c :: d :: rest => rfl

theorem setBytes_append (m : Memory) (i : Nat) (bs cs : List Byte) :
    Memory.setBytes m i (bs ++ cs) = Memory.setBytes (Memory.setBytes m i bs) (i + bs.length) cs := by
  induction bs generalizing m i with
  | nil => rfl
  | cons b bs ih =>
    rw [List.cons_append, Memory.setBytes, ih, Memory.setBytes, List.length_cons, Nat.add_right_comm, Nat.add_assoc]

/-- The turns of a LOAD: its writes, the engine held. -/
theorem scheduleOf_load (i : Nat) (bytes : List Byte) :
    scheduleOf [.load i bytes] [] = (loadActs i bytes).map (HostAct.withSlots · []) := by
  simp [scheduleOf, Line.expand, List.mapIdx_eq_iff]

/-- In IDLE the n writes of a LOAD leave its bytes, filled up with 0 to n words: the first word, then the LOAD of the bytes left. -/
theorem runSteps_load {i n : Nat} {bytes : List Byte} {s : State} (hn : (bytes.length + 3) / 4 = n) (h4 : i % 4 = 0)
    (hi : i + bytes.length ≤ 65536) (hp : s.phase = .idle)
    (h : s.schedule = (loadActs i bytes).map (HostAct.withSlots · [])) :
    ∃ t, runSteps n s = .next t ∧ t.data = Memory.setBytes s.data i (bytes.takeD (4 * n) 0) := by
  induction n generalizing i bytes s with
  | zero => exact ⟨s, rfl, rfl⟩
  | succ n ih =>
    have hne : bytes ≠ [] := by
      rintro rfl
      simp at hn
    have hpos := List.length_pos_of_ne_nil hne
    rw [loadActs_of_ne_nil i hne, List.map_cons] at h
    have hstep := step_dataWrite (by omega) h4 hp h
    have hlen := List.length_drop (i := 4) (l := bytes)
    obtain ⟨t, ht, hd⟩ := ih (i := i + 4) (bytes := bytes.drop 4) (by omega) (by omega) (by omega)
      (s := storeData i (firstWord bytes) { s with schedule := _, slot := _ }) hp rfl
    refine ⟨t, by rw [runSteps_succ, hstep]; exact ht, hd.trans ?_⟩
    rw [Nat.mul_succ, ← firstWord_bytes, setBytes_append]
    rfl

/-! ### WAIT -/

/-- A read of a WAIT in IDLE ends it: STATUS is its result (30_encoding.md R78). -/
theorem step_wait_idle {s : State} {slot : EngineSlot} {later : List EngineSlot} {rest : List Turn}
    (h : s.schedule = ⟨.wait later, slot⟩ :: rest) (hp : s.phase = .idle) :
    step s = .next { s with rdata := statusWord s, draws := s.draws + 4, schedule := rest, slot := slot } := by
  have hb : ¬ State.busy { s with schedule := rest, slot := slot } = true := by
    rw [Bool.not_eq_true]
    exact not_busy_iff.2 hp
  exact (step_of_schedule h).trans ((congrArg engineTurn (if_neg hb)).trans (engineTurn_idle hp))

/-- What a read of a WAIT leaves while BUSY, before the engine's part: the next read at the head of the schedule (30_encoding.md R78). -/
def State.waitRead (s : State) (slot : EngineSlot) (later : List EngineSlot) (rest : List Turn) : State :=
  { s with
    rdata := statusWord s, draws := s.draws + 4,
    schedule := ⟨.wait later.tail, later.headD (.go none)⟩ :: rest, slot := slot }

/-- While BUSY a read of a WAIT goes on to the engine's part. -/
theorem step_wait_busy {s : State} {c : Command} {slot : EngineSlot} {later : List EngineSlot} {rest : List Turn}
    (h : s.schedule = ⟨.wait later, slot⟩ :: rest) (hp : s.phase = .busy c) :
    step s = engineTurn (s.waitRead slot later rest) :=
  (step_of_schedule h).trans (congrArg engineTurn (if_pos (busy_iff.2 ⟨c, hp⟩)))

/-- The engine's part of a turn leaves the schedule. -/
theorem engineTurn_schedule {s t : State} (h : engineTurn s = .next t) : t.schedule = s.schedule := by
  rcases engineTurn_next_cases h with rfl | ⟨_, rfl | rfl | ⟨_, ⟨_, rfl⟩ | ⟨_, code, rfl⟩⟩⟩ <;> simp

/-- The engine's part of a turn that ends a command sets DONE (10_state.md R31). -/
theorem engineTurn_done {s t : State} {c : Command} (hp : s.phase = .busy c) (h : engineTurn s = .next t)
    (hidle : t.phase = .idle) : t.done = true := by
  rcases engineTurn_next_cases h with rfl | ⟨_, rfl | rfl | ⟨_, ⟨_, rfl⟩ | ⟨_, code, rfl⟩⟩⟩
  · rw [hp] at hidle
    cases hidle
  all_goals rfl

/-- Within n steps the WAIT at the head of the schedule has ended, in IDLE with DONE, and STATUS is its result; the turns `rest` follow. -/
def State.WaitEnds (s : State) (rest : List Turn) (n : Nat) : Prop :=
  ∃ (k : Nat) (t : State), k ≤ n ∧ runSteps k s = .next t ∧ t.schedule = rest ∧ t.phase = .idle ∧ t.done = true ∧
    t.rdata = statusWord t

theorem State.WaitEnds.of_step {s u : State} {rest : List Turn} {n : Nat} (h : step s = .next u)
    (hu : u.WaitEnds rest n) : s.WaitEnds rest (n + 1) := by
  obtain ⟨k, t, hk, ht, hend⟩ := hu
  exact ⟨k + 1, t, Nat.succ_le_succ hk, by rw [runSteps_succ, h, andThen_next, ht], hend⟩

theorem State.WaitEnds.mono {s : State} {rest : List Turn} {n n' : Nat} (h : s.WaitEnds rest n) (hn : n ≤ n') :
    s.WaitEnds rest n' := by
  obtain ⟨k, t, hk, hend⟩ := h
  exact ⟨k, t, hk.trans hn, hend⟩

section
variable {s : State} {c : Command} {slot : EngineSlot} {later : List EngineSlot} {rest : List Turn}

/-- Where the engine's part of a read of a WAIT ends the command, the read after it is the last. -/
theorem waitEnds_of_engineTurn {t : State} (h : s.schedule = ⟨.wait later, slot⟩ :: rest) (hp : s.phase = .busy c)
    (ht : engineTurn (s.waitRead slot later rest) = .next t) (hidle : t.phase = .idle) : s.WaitEnds rest 2 := by
  have hlast := (runSteps_one t).trans (step_wait_idle (engineTurn_schedule ht) hidle)
  have hdone := engineTurn_done (s := s.waitRead slot later rest) hp ht hidle
  exact .of_step ((step_wait_busy h hp).trans ht) ⟨1, _, le_rfl, hlast, rfl, hidle, hdone, rfl⟩

/-- A read of a WAIT ends the command, or brings no answer and leaves the next read. -/
theorem waitEnds_or_stays (h : s.schedule = ⟨.wait later, slot⟩ :: rest) (hp : s.phase = .busy c) :
    s.WaitEnds rest 2 ∨ slot.answers = false ∧ step s = .next (s.waitRead slot later rest) := by
  rcases engineTurn_ends_or_stays (s := s.waitRead slot later rest) hp with ⟨t, ht, hidle⟩ | ⟨hans, _, hstay⟩
  · exact .inl (waitEnds_of_engineTurn h hp ht hidle)
  · exact .inr ⟨hans, (step_wait_busy h hp).trans hstay⟩

/-- A WAIT ends for a command that asks nothing of the sink, and for a SEND whose sink answers in one of its reads: by induction on the
slots given for its reads, past which the engine is scheduled (70_reset_and_hazards.md R196; log 13). -/
theorem waitEnds_of_busy (h : s.schedule = ⟨.wait later, slot⟩ :: rest) (hp : s.phase = .busy c)
    (hend : s.EndsAlone c ∨ (slot :: later).any EngineSlot.answers = true) : s.WaitEnds rest (later.length + 3) := by
  induction later generalizing s slot with
  | nil =>
    rcases waitEnds_or_stays h hp with hw | ⟨hans, hstay⟩
    · exact hw.mono (by omega)
    · have halone : s.EndsAlone c := by simpa [hans] using hend
      obtain ⟨t, ht, hidle, _⟩ :=
        engineTurn_ends (s := (s.waitRead slot [] rest).waitRead (.go none) [] rest) hp rfl (.inl halone)
      exact .of_step hstay (waitEnds_of_engineTurn rfl hp ht hidle)
  | cons z later ih =>
    rcases waitEnds_or_stays h hp with hw | ⟨hans, hstay⟩
    · exact hw.mono (by omega)
    · rw [List.any_cons, hans, Bool.false_or] at hend
      exact .of_step hstay (ih rfl hp hend)

end

end Sys2Proof.Machine
end

section
/-! SUPPORT. The statements on host scripts. -/

open Sys2Proof Sys2Proof.Machine

/-- Settles O52: the lines and the offsets as they are written out, the windows by their bounds, WAIT by its reads. -/
theorem scriptLinesExpand : Obligations.ScriptLinesExpand := by
  refine ⟨⟨rfl, rfl, rfl, rfl, rfl, fun _ _ => rfl, fun _ => rfl, fun _ _ => rfl⟩,
    ⟨rfl, rfl, rfl, rfl, rfl, rfl, rfl, rfl, rfl, rfl, rfl, rfl, rfl, rfl, rfl, rfl⟩,
    fun i hi => ⟨data_offset_toNat hi, frame_offset_toNat hi⟩, fun _ => rfl, fun _ _ => rfl, fun _ => ⟨0, rfl⟩,
    fun s slot later rest h => ⟨step_wait_idle h, fun c hp => ⟨step_wait_busy h hp, fun hend => ?_⟩⟩⟩
  exact waitEnds_of_busy h hp (or_assoc.2 hend)

/-- Settles O53: the writes of a LOAD leave its bytes, filled up with 0 to whole words, from its index on. -/
theorem loadPlacesTheBytes : Obligations.LoadPlacesTheBytes := by
  intro i bytes s h4 hi hp h
  obtain ⟨t, ht, hd⟩ := runSteps_load rfl h4 hi hp (h.trans (scheduleOf_load i bytes))
  have hlen := List.takeD_length (4 * ((bytes.length + 3) / 4)) bytes (0 : Byte)
  have written (k : Nat) (hk : k < 4 * ((bytes.length + 3) / 4)) :
      Memory.get? t.data (i + k) = some (bytes.getD k 0) := by
    rw [hd, get?_setBytes_inside (hlen.symm ▸ hk), takeD_getElem? bytes hk]
  refine ⟨t, ht, fun k hk => ?_, fun k hk hk' => ?_, fun j hj => ?_⟩
  · rw [written k (by omega), List.getD_eq_getElem _ _ hk, List.getElem?_eq_getElem hk]
  · rw [written k (by omega), List.getD_eq_default _ _ hk]
  · rw [hd, get?_setBytes_outside (by rw [hlen]; omega)]

end

section
/-! SUPPORT. The folded sum in closed form, the loop's fixed point, the adder, and the layout around the checksum fields. -/

namespace Sys2Proof.Machine

/-! ### The closed form (40_checksum.md R104) -/

/-- The end-around sum of a number: 0 for 0, else its representative modulo 65535 in 1 to 65535 (40_checksum.md R104). -/
def endAroundSum (n : Nat) : Nat := if n = 0 then 0 else 1 + (n - 1) % 65535

theorem endAroundSum_of_le {n : Nat} (h : n ≤ 65535) : endAroundSum n = n := by
  unfold endAroundSum; split_ifs <;> omega

theorem endAroundSum_add_left (m n : Nat) : endAroundSum (endAroundSum m + n) = endAroundSum (m + n) := by
  rcases Nat.eq_zero_or_pos m with rfl | hm
  · rfl
  · have h : endAroundSum m = 1 + (m - 1) % 65535 := if_neg hm.ne'
    rw [h, endAroundSum, endAroundSum, if_neg (by omega), if_neg (by omega)]
    omega

theorem endAroundSum_ffff_add {n : Nat} (h : 0 < n) : endAroundSum (65535 + n) = endAroundSum n := by
  unfold endAroundSum; split_ifs <;> omega

theorem endAroundSum_eq_ffff {n : Nat} : endAroundSum n = 65535 ↔ 0 < n ∧ n % 65535 = 0 := by
  unfold endAroundSum; split_ifs with h
  · simp [h]
  · omega

/-- The loop of R100 computes the end-around sum of the words. -/
theorem foldedSum_eq_endAroundSum (D : List Byte) : foldedSum D = endAroundSum (wordSum D) := by
  have hle := foldedSum_le D
  have hmod := foldedSum_mod D
  unfold endAroundSum
  split_ifs with h
  · exact foldedSum_of_wordSum_zero h
  · have := foldedSum_pos (Nat.pos_of_ne_zero h)
    omega

theorem csum_eq_zero_iff (D : List Byte) : csum D = 0 ↔ foldedSum D = 65535 := by
  have hle := foldedSum_le D
  rw [← BitVec.toNat_inj, csum_toNat, show (0 : Half).toNat = 0 from rfl]
  omega

/-- A span sums to 0x0000 when its word sum is a nonzero multiple of 65535. -/
theorem csum_eq_zero_iff_wordSum (D : List Byte) : csum D = 0 ↔ 0 < wordSum D ∧ wordSum D % 65535 = 0 := by
  rw [csum_eq_zero_iff, foldedSum_eq_endAroundSum, endAroundSum_eq_ffff]

/-! ### The word sum of particular spans -/

theorem wordSum_be16 (v : Half) : wordSum (be16 v) = v.toNat := wordSum_be16_append v []

/-- A 16-bit field at an even offset adds its value to the sum of the bytes around it. -/
theorem wordSum_field {D : List Byte} (v : Half) (E : List Byte) (h : D.length % 2 = 0) :
    wordSum (D ++ be16 v ++ E) = wordSum D + (v.toNat + wordSum E) := by
  rw [List.append_assoc, wordSum_append h, wordSum_be16_append]

/-- The word sum of a span of whole words is the sum of their values, in whatever order they stand. -/
theorem wordSum_words (ws : List (Byte × Byte)) :
    wordSum (ws.flatMap fun w => [w.1, w.2]) = (ws.map fun w => w.1.toNat * 256 + w.2.toNat).sum := by
  induction ws with
  | nil => rfl
  | cons w ws ih => simp [wordSum, ih]

theorem wordSum_replicate_zero (n : Nat) : wordSum (List.replicate n 0) = 0 := by
  match n with
  | 0 => rfl
  | 1 => rfl
  | n + 2 =>
    rw [List.replicate_succ, List.replicate_succ, wordSum, wordSum_replicate_zero n]
    rfl

/-- The bound of R103: a full data buffer is 32768 words. -/
theorem wordSum_le_dataBuf {D : List Byte} (h : D.length ≤ 65536) : wordSum D ≤ 0x7FFF8000 := by
  have := wordSum_le_words D
  omega

/-! ### The loop's fixed point (40_checksum.md R102) -/

/-- The loop leaves an accumulator below 2^16 alone. -/
theorem foldCarry_of_lt {S : Nat} (fuel : Nat) (h : S < 2 ^ 16) : foldCarry fuel S = S := by
  cases fuel with
  | zero => rfl
  | succ fuel => exact if_pos (Nat.div_eq_of_lt h)

theorem foldCarry_add (m n S : Nat) : foldCarry (m + n) S = foldCarry n (foldCarry m S) := by
  induction m generalizing S with
  | zero => rw [Nat.zero_add, foldCarry]
  | succ m ih =>
    rw [Nat.succ_add, foldCarry, foldCarry]
    split_ifs with h0
    · exact (foldCarry_of_lt n (by omega)).symm
    · exact ih _

/-- Once the accumulator is below 2^16, a longer run of the loop ends at the same value. -/
theorem foldCarry_of_le {m n S : Nat} (h : foldCarry m S < 2 ^ 16) (hmn : m ≤ n) : foldCarry n S = foldCarry m S := by
  rw [← Nat.add_sub_cancel' hmn, foldCarry_add, foldCarry_of_lt _ h]

/-- The first fold of a 32-bit accumulator leaves at most 0x1FFFE, so the second leaves 16 bits. -/
theorem foldCarry_two_lt {S : Nat} (h : S < 2 ^ 32) : foldCarry 2 S < 2 ^ 16 := by
  simp only [foldCarry]
  split_ifs <;> omega

/-! ### The adder (40_checksum.md R110) -/

theorem endAroundAdd_eq_endAroundSum {acc w : Nat} (h : acc ≤ 65535) (hw : w ≤ 65535) :
    endAroundAdd acc w = endAroundSum (acc + w) := by
  unfold endAroundAdd endAroundSum; split_ifs <;> omega

/-- The adder computes the end-around sum of the words it is given and the accumulator it starts from. -/
theorem adderRun_eq_endAroundSum {acc : Nat} (D : List Byte) (h : acc ≤ 65535) :
    adderRun acc D = endAroundSum (acc + wordSum D) := by
  match D with
  | [] => exact (endAroundSum_of_le h).symm
  | [b] =>
    have := b.isLt
    exact endAroundAdd_eq_endAroundSum h (by omega)
  | a :: b :: D =>
    have hw : a.toNat * 256 + b.toNat ≤ 65535 := by have := a.isLt; have := b.isLt; omega
    rw [adderRun, wordSum, adderRun_eq_endAroundSum D (endAroundAdd_le h hw), endAroundAdd_eq_endAroundSum h hw,
      endAroundSum_add_left, Nat.add_assoc]

theorem adderRun_zero_eq_foldedSum (D : List Byte) : adderRun 0 D = foldedSum D := by
  rw [adderRun_eq_endAroundSum D (Nat.zero_le _), Nat.zero_add, foldedSum_eq_endAroundSum]

/-! ### Verification (40_checksum.md R108) -/

/-- The checksum in its field completes the word sum to a nonzero multiple of 65535. -/
theorem csum_insert_eq_zero {D : List Byte} (E : List Byte) (h : D.length % 2 = 0) :
    csum (D ++ be16 (csum (D ++ be16 0 ++ E)) ++ E) = 0 := by
  have hle := foldedSum_le (D ++ be16 0 ++ E)
  have hmod := foldedSum_mod (D ++ be16 0 ++ E)
  have hzero := @foldedSum_of_wordSum_zero (D ++ be16 0 ++ E)
  rw [csum_eq_zero_iff_wordSum, wordSum_field _ E h, csum_toNat]
  rw [wordSum_field _ E h, show (0 : Half).toNat = 0 from rfl] at hmod hzero
  omega

/-- Around its TCP checksum field the checksum-input buffer is the same, whatever the field holds. -/
theorem checksumInput_split (x : Operands) (c : Half) :
    pseudoHdr (ipHdrZero x) x.len ++ tcpHdr x.sport x.dport x.seq x.ack x.flags x.win c ++ x.pay
      = (pseudoHdr (ipHdrZero x) x.len ++ (be16 x.sport ++ be16 x.dport ++ be32 x.seq ++ be32 x.ack ++ [tcpDataOffset]
          ++ [x.flags.setWidth 8] ++ be16 x.win)) ++ be16 c ++ ([0x00, 0x00] ++ x.pay) := by
  simp only [tcpHdr_split, List.append_assoc]

/-! ### CSUM (40_checksum.md R109) -/

theorem spanTooLong_eq_false {s : State} : spanTooLong s = false ↔ s.csumBase.toNat + s.csumLen.toNat ≤ 65536 :=
  decide_eq_false_iff_not.trans Nat.not_lt

theorem spanTooLong_eq_true {s : State} : spanTooLong s = true ↔ 65536 < s.csumBase.toNat + s.csumLen.toNat :=
  decide_eq_true_iff

/-- Where every byte of a span is written, the bytes read are those. -/
theorem readSpan_eq_of_get? {m : Memory} {i : Nat} {D : List Byte} (d : Nat)
    (h : ∀ k, k < D.length → Memory.get? m (i + k) = D[k]?) : readSpan m d i D.length = D := by
  refine List.ext_getElem? fun k => ?_
  rcases Nat.lt_or_ge k D.length with hk | hk
  · rw [List.getElem?_eq_getElem hk]
    exact (readSpan_byte m d i hk).1 _ ((h k hk).trans (List.getElem?_eq_getElem hk))
  · rw [List.getElem?_eq_none hk, List.getElem?_eq_none (by simpa using hk)]

/-- Against the state before the start, IDLE too, the finish changes DONE and ERR alone (10_state.md R31). -/
theorem finish_of_idle {s : State} (e : ErrCode) (hp : s.phase = .idle) :
    finish e s = { s with done := true, err := e } := by
  simp only [finish, ← hp]

/-- A CSUM in IDLE with the engine scheduled is started and runs in the same turn. -/
theorem exec_csum_go {s : State} {sink : Option (BitVec 2)} (g : BitVec 29) (hp : s.phase = .idle)
    (hs : s.slot = .go sink) : exec (.csum g) s = runCsum (start .csum s) :=
  (exec_idle _ hp).trans (engineTurn_go (start_phase s .csum) hs)

end Sys2Proof.Machine
end

section
/-! SUPPORT. The statements on the Checksum Engine and on CSUM. -/

open Sys2Proof Sys2Proof.Machine

/-- Settles O10: the start changes nothing that the span check, the span's bytes and the finished state depend on. -/
theorem csumWritesTheSpanChecksum : Obligations.CsumWritesTheSpanChecksum := by
  intro g s sink hp hs
  refine ⟨fun hfit => ⟨?_, fun D hlen hD => ?_⟩, fun hlong => ?_⟩
  · have hrun := runCsum_of_fits (s := start .csum s) (spanTooLong_eq_false.2 hfit)
    have hfin := finish_of_idle (s := useDraws (spanLength s) (writeChecksum (csum (spanBytes s)) s)) .ok hp
    exact (exec_csum_go g hp hs).trans (hrun.trans (congrArg Host.Outcome.next hfin))
  · rw [spanBytes, spanLength, ← hlen]
    exact readSpan_eq_of_get? _ hD
  · have hrun := runCsum_of_long (s := start .csum s) (spanTooLong_eq_true.2 hlong)
    have hfin := finish_of_idle .invalidInput hp
    exact (exec_csum_go g hp hs).trans (hrun.trans (congrArg Host.Outcome.next hfin))

/-- Settles O20: the checksum is a function of the word sum, and of that only its end-around sum. -/
theorem checksumHasAClosedForm : Obligations.ChecksumHasAClosedForm := by
  refine ⟨fun D => ⟨foldedSum_eq_endAroundSum D, csum_toNat D⟩, fun ws ws' h => csum_congr ?_, fun D h => ?_⟩
  · rw [wordSum_words, wordSum_words]
    exact (h.map _).sum_eq
  · have hsum : wordSum ([0xFF, 0xFF] ++ D) = 65535 + wordSum D := wordSum_be16_append 0xFFFF D
    rw [csum, csum, foldedSum_eq_endAroundSum, foldedSum_eq_endAroundSum, hsum, endAroundSum_ffff_add h]

/-- Settles O21: two folds reach an accumulator below 2^16, which no further fold changes. -/
theorem twoFoldsAreEnough : Obligations.TwoFoldsAreEnough := by
  have folded_lt (D : List Byte) : foldedSum D < 2 ^ 16 := Nat.lt_succ_of_le (foldedSum_le D)
  refine ⟨folded_lt, fun S hS => ⟨by omega, foldCarry_two_lt hS, fun fuel => foldCarry_of_le (foldCarry_two_lt hS)⟩,
    fun D hD => ?_⟩
  have htwo : foldCarry 2 (wordSum D) < 2 ^ 16 := foldCarry_two_lt (Nat.lt_of_le_of_lt (wordSum_le_dataBuf hD) (by decide))
  calc foldedSum D
    _ = foldCarry (D.length + 2) (wordSum D) := (foldCarry_of_le (folded_lt D) (Nat.le_add_right ..)).symm
    _ = foldCarry 2 (wordSum D) := foldCarry_of_le htwo (Nat.le_add_left ..)

/-- Settles O22, by the number of words. -/
theorem accumulatorNeverOverflows : Obligations.AccumulatorNeverOverflows := by
  refine ⟨fun D => wordSum_le_dataBuf, fun x hx => ?_⟩
  have hlen : (checksumInput x).length ≤ 65527 := by
    have : x.len ≤ 65495 := hx
    rw [checksumInput_length]
    omega
  exact ⟨hlen, Nat.lt_of_le_of_lt (wordSum_le_dataBuf (Nat.le_trans hlen (by decide))) (by decide)⟩

/-- Settles O23: zero bytes sum to what the empty span sums to. -/
theorem zeroSpansGiveAllOnes : Obligations.ZeroSpansGiveAllOnes :=
  ⟨rfl, fun n => ⟨wordSum_replicate_zero n, csum_congr (E := []) (wordSum_replicate_zero n)⟩⟩

/-- Settles O24: after whole words the trailing byte is a word of its own. -/
theorem oddTrailingByteIsHighOrder : Obligations.OddTrailingByteIsHighOrder := by
  refine ⟨fun D b h => ⟨csum_congr ?_, wordSum_append h⟩, rfl, rfl⟩
  rw [wordSum_append h, wordSum_append h]
  simp [wordSum]

/-- Settles O25: the complement of a value, summed as one word, has that value as its checksum. -/
theorem zeroChecksumIsKept : Obligations.ZeroChecksumIsKept := by
  refine ⟨fun v => ⟨be16 (~~~v), BitVec.eq_of_toNat_eq ?_⟩, csum_eq_zero_iff, rfl,
    fun s h => ⟨_, runCsum_of_fits h, rfl⟩, fun x => ⟨fun h => ?_, fun h => ?_⟩⟩
  · have hv := v.isLt
    rw [csum_toNat, foldedSum_eq_endAroundSum, wordSum_be16, BitVec.toNat_not, endAroundSum_of_le (by omega)]
    omega
  · rw [ipHdrFinal, ipChecksum, h]
    exact ⟨rfl, rfl⟩
  · rw [tcpHdrFinal, tcpChecksum, h]
    exact ⟨rfl, rfl⟩

/-- Settles O26: the inserted checksum completes the sum; at an odd offset the example evaluates. -/
theorem verificationLaw : Obligations.VerificationLaw := by
  refine ⟨fun D E h => csum_insert_eq_zero E h, ⟨rfl, rfl⟩, fun x => ⟨?_, ?_⟩⟩
  · exact ⟨_, _, rfl, fun c => ipHdr_split x.len x.src x.dst x.id c⟩
  · exact ⟨_, _, rfl, fun c => checksumInput_split x c⟩

/-- Settles O27: both forms compute the end-around sum of the words. -/
theorem adderFormEqualsLoopForm : Obligations.AdderFormEqualsLoopForm := by
  intro D
  have h := adderRun_zero_eq_foldedSum D
  exact ⟨by rw [adderCsum, csum, h], h, h ▸ foldedSum_le D⟩

end

section
/-! SUPPORT. The TCP segment length, the frame past its IP header, and the pseudo-header of either IP header. -/

namespace Sys2Proof.Machine

/-- The segment length of a legal frame is not cut to 16 bits (41_header_encoders.md R121). -/
theorem tcpSegmentLength_toNat {x : Operands} (h : x.Legal) : (tcpSegmentLength x.len).toNat = 20 + x.len := by
  have : x.len ≤ 65495 := h
  rw [tcpSegmentLength, BitVec.toNat_ofNat]
  omega

/-- After the IP header the frame is the TCP header and the payload. -/
theorem frame_drop_ipHdr (x : Operands) : (frameOf x).drop 20 = tcpHdrFinal x ++ x.pay := by
  rw [frameOf, List.append_assoc]
  exact List.drop_left' (ipHdrFinal_length x)

/-- The pseudo-header reads nothing of the checksum field or the identification (41_header_encoders.md R127, R129). -/
theorem pseudoHdr_ipHdr_congr (L : Nat) (src dst : Word) (id id' c c' : Half) (N : Nat) :
    pseudoHdr (ipHdr L src dst id c) N = pseudoHdr (ipHdr L src dst id' c') N := by
  rw [pseudoHdr_ipHdr, pseudoHdr_ipHdr]

/-- The pseudo-header may be taken from the final IP header (41_header_encoders.md R127). -/
theorem pseudoHdr_ipHdrFinal (x : Operands) : pseudoHdr (ipHdrFinal x) x.len = pseudoHdr (ipHdrZero x) x.len :=
  pseudoHdr_ipHdr_congr ..

/-- The checksum-input buffer is that of any other identification (41_header_encoders.md R129). -/
theorem checksumInput_with_id (x : Operands) (id : Half) : checksumInput { x with id := id } = checksumInput x :=
  congrArg (· ++ tcpHdrZero x ++ x.pay) (pseudoHdr_ipHdr_congr ..)

/-- The final IP header sums to 0x0000: its checksum field is at the even offset 10 (40_checksum.md R108). -/
theorem csum_ipHdrFinal (x : Operands) : csum (ipHdrFinal x) = 0 := by
  rw [ipHdrFinal, ipChecksum, ipHdrZero, ipHdr_split, ipHdr_split]
  exact csum_insert_eq_zero _ (by simp)

/-- The pseudo-header, the final TCP header and the payload sum to 0x0000: the checksum field is at the even offset 28
(40_checksum.md R108). -/
theorem csum_pseudoHdr_tcpHdrFinal (x : Operands) :
    csum (pseudoHdr (ipHdrZero x) x.len ++ tcpHdrFinal x ++ x.pay) = 0 := by
  rw [tcpHdrFinal, tcpChecksum, checksumInput, tcpHdrZero, checksumInput_split, checksumInput_split]
  exact csum_insert_eq_zero _ (by simp [ipHdrZero])

/-- Byte 33 of a frame is the six flags below two zero bits (41_header_encoders.md R125). -/
theorem frame_flagByte (x : Operands) : (frameOf x)[33]? = some (x.flags.setWidth 8) := rfl

end Sys2Proof.Machine
end

section
/-! SUPPORT. The statements on the header encoders. -/

open Sys2Proof Sys2Proof.Machine

/-- Settles O28: the fixed fields evaluate, and each other field is its bytes, high-order first. -/
theorem ipHeaderBytes : Obligations.IpHeaderBytes := fun _ _ _ _ _ => rfl

/-- Settles O29: the data offset evaluates, and each other field is its bytes, high-order first. -/
theorem tcpHeaderBytes : Obligations.TcpHeaderBytes := fun _ _ _ _ _ _ _ => rfl

/-- Settles O30: the pseudo-header of an IP header is a function of the addresses and the length alone. -/
theorem pseudoHeaderMirrorsTheIpHeader : Obligations.PseudoHeaderMirrorsTheIpHeader := fun x =>
  ⟨pseudoHdr_ipHdr .., pseudoHdr_ipHdrFinal x, fun id => congrArg csum (checksumInput_with_id x id)⟩

/-- Settles O31: the flag byte is FLAGS extended by two zero bits. -/
theorem flagByteRecoversTheFlags : Obligations.FlagByteRecoversTheFlags := by
  refine fun x => ⟨x.flags.setWidth 8, frame_flagByte x, BitVec.toNat_setWidth_of_le (by decide), fun i hi => ?_, ?_, ?_⟩
  · rw [BitVec.getLsbD_setWidth, decide_eq_true (by omega), Bool.true_and]
  · rw [BitVec.getLsbD_setWidth, BitVec.getLsbD_of_ge _ 6 (by decide), Bool.and_false]
  · rw [BitVec.getLsbD_setWidth, BitVec.getLsbD_of_ge _ 7 (by decide), Bool.and_false]

/-- Settles O32, from the bound on a legal payload. -/
theorem lengthFieldsNeverWrap : Obligations.LengthFieldsNeverWrap := by
  intro x hx
  have hlen : x.len ≤ 65495 := hx
  exact ⟨ipTotalLength_toNat hx, by omega, tcpSegmentLength_toNat hx, by omega⟩

/-- Settles O36: the frame's parts are those the two checksums were put into. -/
theorem bothChecksumsOfAFrameVerify : Obligations.BothChecksumsOfAFrameVerify := by
  intro x
  rw [frame_take_ipHdr, frame_drop_ipHdr, pseudoHdr_ipHdrFinal, ← List.append_assoc]
  exact ⟨csum_ipHdrFinal x, csum_pseudoHdr_tcpHdrFinal x⟩

end

section
/-! SUPPORT. BUILD and SEND in IDLE, the parts of a frame and its length fields, and the records TxLog gains. -/

namespace Sys2Proof.Machine

/-! ### BUILD and SEND in IDLE (42_segment_transmit.md R143, R144) -/

theorem payloadTooLong_eq_true {s : State} : payloadTooLong s = true ↔ 65495 < s.payloadLen.toNat :=
  decide_eq_true_iff

/-- A BUILD in IDLE with the engine scheduled is started and runs in the same turn. -/
theorem exec_build_go {s : State} {sink : Option (BitVec 2)} (g : BitVec 29) (hp : s.phase = .idle)
    (hs : s.slot = .go sink) : exec (.build g) s = runBuildWith Config.params (start .build s) :=
  (exec_idle _ hp).trans (engineTurn_go (start_phase s .build) hs)

/-- A SEND in IDLE with the engine scheduled is started, and its engine step is tried in the same turn. -/
theorem exec_send_go {s : State} {sink : Option (BitVec 2)} (g : BitVec 29) (hp : s.phase = .idle)
    (hs : s.slot = .go sink) : exec (.send g) s = runSendWith Config.params sink (start .send s) :=
  (exec_idle _ hp).trans (engineTurn_go (start_phase s .send) hs)

theorem operandsWith_params (s : State) : operandsWith Config.params s = operands s := rfl

/-- A start changes no operand. -/
theorem operands_start (c : Command) (s : State) : operands (start c s) = operands s := rfl

theorem payloadLength_start (c : Command) (s : State) : payloadLength (start c s) = payloadLength s := rfl

/-- A command that fails in IDLE leaves DONE and its error: the finish writes what the start wrote. -/
theorem finish_start {s : State} (c : Command) (e : ErrCode) (hp : s.phase = .idle) :
    finish e (start c s) = { s with done := true, err := e } :=
  finish_of_idle e hp

/-- What a BUILD or SEND in IDLE leaves that writes its results and ends with the code `e`, but for the record of a SEND. -/
def assembled (e : ErrCode) (s : State) : State :=
  { s with
    frame := Memory.setBytes s.frame 0 (frameOf (operands s))
    ipCsum := ipChecksum (operands s)
    tcpCsum := tcpChecksum (operands s)
    frameLen := BitVec.ofNat 16 (40 + s.payloadLen.toNat)
    done := true
    err := e
    draws := s.draws + s.payloadLen.toNat }

/-- From the start in IDLE to the finish, STATUS and the phase are as if there had been no start. -/
theorem finish_writeResults_start {s : State} (c : Command) (e : ErrCode) (hp : s.phase = .idle) :
    finish e (useDraws (payloadLength s) (writeResults (operands s) (start c s))) = assembled e s := by
  simp only [finish, useDraws, writeResults, start, assembled, operands_len, payloadLength, ← hp]

/-- The log and the end of a command write different fields. -/
theorem finish_logSend (e : ErrCode) (r : TxRecord) (s : State) :
    finish e (logSend r s) = logSend r (finish e s) := rfl

/-- A BUILD in IDLE past its length check. -/
theorem exec_build_fits {s : State} {sink : Option (BitVec 2)} (g : BitVec 29) (hp : s.phase = .idle)
    (hs : s.slot = .go sink) (hl : s.payloadLen.toNat ≤ 65495) : exec (.build g) s = .next (assembled .ok s) := by
  rw [exec_build_go g hp hs, runBuildWith_of_fits (s := start .build s) (payloadTooLong_eq_false.2 hl),
    operandsWith_params, operands_start, payloadLength_start, finish_writeResults_start .build .ok hp]

/-- A BUILD in IDLE that fails its length check. -/
theorem exec_build_long {s : State} {sink : Option (BitVec 2)} (g : BitVec 29) (hp : s.phase = .idle)
    (hs : s.slot = .go sink) (hl : 65495 < s.payloadLen.toNat) :
    exec (.build g) s = .next { s with done := true, err := .invalidInput } := by
  rw [exec_build_go g hp hs, runBuildWith_of_long (s := start .build s) (payloadTooLong_eq_true.2 hl),
    finish_start .build _ hp]

theorem txRecord_start (c : Command) (s : State) (f : List Byte) (r : SinkResponse) :
    txRecord (start c s) f r = txRecord s f r := rfl

/-- A SEND in IDLE past its length check that the sink answers: the results and the record, and ERR from the response. -/
theorem exec_send_answered {s : State} {code : BitVec 2} (g : BitVec 29) (hp : s.phase = .idle)
    (hs : s.slot = .go (some code)) (hl : s.payloadLen.toNat ≤ 65495) :
    exec (.send g) s = .next (logSend (txRecord s (frameOf (operands s)) (responseOf code))
      (assembled (responseOf code).errCode s)) := by
  rw [exec_send_go g hp hs, runSendWith_answered (s := start .send s) code (payloadTooLong_eq_false.2 hl),
    operandsWith_params, operands_start, payloadLength_start, txRecord_start, finish_logSend,
    finish_writeResults_start .send _ hp]

/-- A SEND in IDLE that fails its length check, whatever the sink does. -/
theorem exec_send_long {s : State} {sink : Option (BitVec 2)} (g : BitVec 29) (hp : s.phase = .idle)
    (hs : s.slot = .go sink) (hl : 65495 < s.payloadLen.toNat) :
    exec (.send g) s = .next { s with done := true, err := .invalidInput } := by
  rw [exec_send_go g hp hs, runSendWith_of_long (s := start .send s) (payloadTooLong_eq_true.2 hl), finish_start .send _ hp]

/-- A SEND that ends leaves one record more in TxLog. -/
theorem sent_txLog (e : ErrCode) (r : TxRecord) (n : Nat) (x : Operands) (s : State) :
    (finish e (logSend r (useDraws n (writeResults x s)))).txLog = s.txLog ++ [r] := by
  simp only [finish_txLog, logSend_txLog, useDraws_txLog, writeResults_txLog]

/-- A SEND in progress past its length check that the sink answers. -/
theorem engineTurn_answered {s : State} {code : BitVec 2} (hp : s.phase = .busy .send) (hs : s.slot = .go (some code))
    (hl : s.payloadLen.toNat ≤ 65495) :
    engineTurn s = .next (finish (responseOf code).errCode
      (logSend (txRecord s (frameOf (operands s)) (responseOf code))
        (useDraws (payloadLength s) (writeResults (operands s) s)))) := by
  rw [engineTurn_go hp hs, engineStepWith, runSendWith_answered code (payloadTooLong_eq_false.2 hl), operandsWith_params]

/-! ### The frame (42_segment_transmit.md R140, R142) -/

/-- After both headers the frame is the payload. -/
theorem frame_drop_headers (x : Operands) : (frameOf x).drop 40 = x.pay :=
  List.drop_left' (by rw [List.length_append, ipHdrFinal_length, tcpHdrFinal_length])

/-- Bytes 2 and 3 of the frame are the IP total length, high-order byte first. -/
theorem frame_totalLength (x : Operands) :
    (frameOf x)[2]? = some ((ipTotalLength x.len).extractLsb' 8 8) ∧
    (frameOf x)[3]? = some ((ipTotalLength x.len).extractLsb' 0 8) := ⟨rfl, rfl⟩

/-- Bytes 10 and 11 of the pseudo-header are the TCP segment length, high-order byte first. -/
theorem pseudoHdr_segmentLength (x : Operands) :
    (pseudoHdr (ipHdrZero x) x.len)[10]? = some ((tcpSegmentLength x.len).extractLsb' 8 8) ∧
    (pseudoHdr (ipHdrZero x) x.len)[11]? = some ((tcpSegmentLength x.len).extractLsb' 0 8) := by
  rw [ipHdrZero, pseudoHdr_ipHdr]
  exact ⟨rfl, rfl⟩

/-- With PAYLOAD_LEN = 0 no data byte is read (42_segment_transmit.md R142). -/
theorem payloadBytes_of_zero {s : State} (h : s.payloadLen = 0) : payloadBytes s = [] := by
  rw [payloadBytes, payloadLength, h]
  rfl

/-! ### The records TxLog gains (42_segment_transmit.md R146) -/

/-- The host's part of a turn leaves TxLog. -/
theorem hostPart_txLog {t : Turn} {s u : State} (hu : HostPart t s u) : u.txLog = s.txLog := by
  rcases hu with rfl | ⟨_, rfl⟩ | ⟨v, rfl⟩ | ⟨_, rfl⟩ | ⟨_, rfl⟩ | ⟨_, _, _, _, _, rfl⟩ | ⟨_, r, v, rfl⟩ |
    ⟨_, _, _, _, rfl⟩
  · rfl
  · rfl
  · rw [writeStatus_eq]
  · rfl
  · rfl
  · rfl
  · obtain ⟨_, _, _, _, _, _, _, _, _, _, e⟩ := storeInput_frame r v s
    rw [e]
  · rfl

/-- The engine's part of a turn leaves TxLog, or appends the record of a SEND past its length check. -/
theorem engineTurn_txLog_cases {s t : State} (h : engineTurn s = .next t) :
    t.txLog = s.txLog ∨
    payloadTooLong s = false ∧ s.phase = .busy .send ∧ ∃ r, t.txLog = s.txLog ++ [r] := by
  rcases engineTurn_next_cases h with rfl | ⟨_, rfl | rfl | ⟨hl, ⟨_, rfl⟩ | ⟨hp, code, rfl⟩⟩⟩
  · exact .inl rfl
  · exact .inl rfl
  · exact .inl rfl
  · exact .inl (by simp only [finish_txLog, useDraws_txLog, writeResults_txLog])
  · exact .inr ⟨hl, hp, _, sent_txLog ..⟩

/-- A reset leaves TxLog, or appends the record of the SEND past its length check it abandons (70_reset_and_hazards.md R182). -/
theorem resetWith_txLog_cases (p : Params) (cut : Option (Nat × BitVec 2)) (s : State) :
    (resetWith p cut s).txLog = s.txLog ∨
    payloadTooLong s = false ∧ s.phase = .busy .send ∧ ∃ r, (resetWith p cut s).txLog = s.txLog ++ [r] := by
  unfold resetWith
  split
  · rename_i k code hp
    split
    · exact .inl rfl
    · rename_i hl
      exact .inr ⟨by simpa using hl, hp, _, rfl⟩
  · exact .inl rfl

end Sys2Proof.Machine
end

section
/-! SUPPORT. The statements on BUILD and SEND, the frame and TxLog. -/

open Sys2Proof Sys2Proof.Machine

/-- Settles O12, on both sides of the length check. -/
theorem buildWritesTheFrame : Obligations.BuildWritesTheFrame := by
  refine fun g s sink hp hs => ⟨fun hl => ?_, exec_build_long g hp hs⟩
  rw [exec_build_fits g hp hs hl, assembled]

/-- Settles O13: past the length check the sink's answer decides. -/
theorem sendTransmitsTheFrameOnce : Obligations.SendTransmitsTheFrameOnce := by
  refine fun g s hp => ⟨fun code hl hs => ?_, fun hl hs => ?_, fun sink hl hs => exec_send_long g hp hs hl⟩
  · rw [exec_send_answered g hp hs hl]
    simp only [logSend, txRecord, assembled]
  · exact (exec_send_go g hp hs).trans (runSendWith_silent (payloadTooLong_eq_false.2 hl))

/-- Settles O15: past the length check both leave what a BUILD leaves but for TxLog and ERR, and else the same error. -/
theorem sendIsBuildPlusTheSink : Obligations.SendIsBuildPlusTheSink := by
  intro g g' s t u code hp hs ht hu
  rcases Nat.lt_or_ge 65495 s.payloadLen.toNat with hl | hl
  · rw [exec_build_long g hp hs hl] at ht
    rw [exec_send_long g' hp hs hl] at hu
    cases ht
    cases hu
    rfl
  · rw [exec_build_fits g hp hs hl] at ht
    rw [exec_send_answered g' hp hs hl] at hu
    cases ht
    cases hu
    rfl

/-- Settles O33: the total length field of a legal frame is not cut, and the frame is as long as it says. -/
theorem frameLengthIsItsTotalLengthField : Obligations.FrameLengthIsItsTotalLengthField := by
  intro x hx
  obtain ⟨hhi, hlo⟩ := frame_totalLength x
  refine ⟨frame_length x, frame_take_ipHdr x, frame_drop_take_tcpHdr x, frame_drop_headers x, _, _, hhi, hlo, ?_⟩
  rw [be16_toNat, ipTotalLength_toNat hx, frame_length]

/-- Settles O37: both length fields at L = 0, and no data byte among the operands. -/
theorem emptyPayloadFrame : Obligations.EmptyPayloadFrame := by
  refine ⟨fun x hpay => ?_, fun s m d h => ?_⟩
  · have hlen : x.len = 0 := congrArg List.length hpay
    obtain ⟨hhi, hlo⟩ := frame_totalLength x
    obtain ⟨hhi', hlo'⟩ := pseudoHdr_segmentLength x
    rw [hlen] at hhi hlo hhi' hlo'
    refine ⟨?_, by rw [frame_length, hlen], hhi, hlo, by rw [hlen]; exact hhi', by rw [hlen]; exact hlo'⟩
    rw [frameOf, hpay, List.append_nil]
  · simp only [operands, operandsWith, payloadBytes_of_zero h,
      payloadBytes_of_zero (s := { s with data := m, draws := d }) h]

/-- Settles O39: the bytes written are the frame's, as many as FRAME_LEN says. -/
theorem frameBufferHoldsTheFrame : Obligations.FrameBufferHoldsTheFrame := by
  intro x s hx
  obtain ⟨hlen, hbytes⟩ := writeResults_frameIs x s hx
  rw [frame_length] at hlen hbytes
  refine ⟨hbytes, fun j hj => ?_, writeResults_ipCsum s x, writeResults_tcpCsum s x, hlen⟩
  rw [writeResults_frame, get?_setBytes_outside (.inr (by rwa [frame_length, Nat.zero_add]))]

/-- Settles O40: the record holds the frame, and so does the frame buffer below FRAME_LEN. -/
theorem sinkReceivesTheFrameBuffer : Obligations.SinkReceivesTheFrameBuffer := by
  intro s code hp hs hl
  obtain ⟨hlen, hbytes⟩ := writeResults_frameIs (operands s) s (operands_legal (payloadTooLong_eq_false.2 hl))
  refine ⟨_, _, engineTurn_answered hp hs hl, sent_txLog .., rfl, rfl, rfl, ?_⟩
  simp only [finish_frameLen, logSend_frameLen, useDraws_frameLen, finish_frame, logSend_frame, useDraws_frame, txRecord]
  exact ⟨hlen.symm, fun j hj => hbytes j (hlen ▸ hj)⟩

/-- Settles O58: while BUSY a record is that of the SEND in progress, and in IDLE that of the SEND the host's part starts. -/
theorem txLogGainsOnlyTheRecordOfASend : Obligations.TxLogGainsOnlyTheRecordOfASend := by
  intro s t ht
  cases hp : s.phase with
  | busy c =>
    have sending (h : payloadTooLong s = false ∧ s.phase = .busy .send ∧ ∃ r, t.txLog = s.txLog ++ [r]) :
        s.sending ∧ ∃ r, t.txLog = s.txLog ++ [r] := by
      obtain ⟨hl, hsend, hrec⟩ := h
      exact ⟨⟨hl, .inl hsend⟩, hrec⟩
    rcases step_busy hp with ⟨_, _, _, _, e⟩ | ⟨cut, _, e⟩ | ⟨_, _, _, _, _, _, e⟩
    · rw [e] at ht; cases ht
    · rw [e] at ht; cases ht
      exact (resetWith_txLog_cases _ cut (beginTurn s)).imp_right sending
    · exact (engineTurn_txLog_cases (e.symm.trans ht)).imp_right sending
  | idle =>
    rcases takeTurn_next_cases ht with ⟨cut, _, rfl⟩ | ⟨u, hu, ⟨hb, _⟩ | hpart⟩
    · rcases resetWith_txLog_cases Config.params cut (beginTurn s) with hsame | ⟨_, hsend, _⟩
      · exact .inl hsame
      · rw [beginTurn_phase, hp] at hsend; cases hsend
    · simp [not_busy_iff.2 hp] at hb
    · rcases hostPart_idle (s := beginTurn s) hp hpart with ⟨hpu, _⟩ | ⟨c, v, hv, hcmd, rfl⟩
      · rw [engineTurn_idle hpu] at hu
        cases hu
        exact .inl (hostPart_txLog (s := beginTurn s) hpart)
      · rcases engineTurn_txLog_cases hu with hsame | ⟨hl, hsend, hrec⟩
        · exact .inl hsame
        · cases hsend
          exact .inr ⟨⟨hl, .inr ⟨hp, v, hv, hcmd⟩⟩, hrec⟩

end

section
/-! SUPPORT. IGN beside the engine's part of a turn, the reserved CTRL words, and the transactions the bus lets through. -/

namespace Sys2Proof.Machine

/-! ### IGN (60_exceptions.md R165) -/

/-- No operand of a command depends on IGN (30_encoding.md R73). -/
theorem operandsWith_dropWrite (p : Params) (s : State) : operandsWith p (dropWrite s) = operandsWith p s := rfl

/-- What a BUILD or SEND writes before it ends is written beside IGN. -/
theorem results_dropWrite (p : Params) (s : State) :
    useDraws (payloadLength (dropWrite s)) (writeResults (operandsWith p (dropWrite s)) (dropWrite s))
      = dropWrite (useDraws (payloadLength s) (writeResults (operandsWith p s) s)) := by
  rw [operandsWith_dropWrite]
  simp only [useDraws, writeResults, dropWrite, payloadLength]

/-- The engine step of each command does the same from a state with IGN set, and leaves IGN set: no result reads IGN. -/
theorem engineStepWith_dropWrite {p : Params} {c : Command} {sink : Option (BitVec 2)} {s t : State}
    (h : engineStepWith p c sink s = .next t) : engineStepWith p c sink (dropWrite s) = .next (dropWrite t) := by
  cases c with
  | csum =>
    rw [engineStepWith] at h ⊢
    cases hl : spanTooLong s with
    | true => rw [runCsum_of_long hl] at h; cases h; exact runCsum_of_long hl
    | false => rw [runCsum_of_fits hl] at h; cases h; exact runCsum_of_fits hl
  | build =>
    rw [engineStepWith] at h ⊢
    cases hl : payloadTooLong s with
    | true => rw [runBuildWith_of_long hl] at h; cases h; exact runBuildWith_of_long hl
    | false =>
      rw [runBuildWith_of_fits hl] at h
      cases h
      rw [runBuildWith_of_fits (s := dropWrite s) hl, results_dropWrite]
      rfl
  | send =>
    rw [engineStepWith] at h ⊢
    cases hl : payloadTooLong s with
    | true => rw [runSendWith_of_long hl] at h; cases h; exact runSendWith_of_long hl
    | false =>
      cases sink with
      | none => rw [runSendWith_silent hl] at h; cases h; exact runSendWith_silent hl
      | some code =>
        rw [runSendWith_answered code hl] at h
        cases h
        rw [runSendWith_answered (s := dropWrite s) code hl, results_dropWrite, operandsWith_dropWrite]
        rfl

/-- The engine's part of a turn does the same from a state with IGN set, and leaves IGN set. -/
theorem engineTurn_dropWrite {s t : State} (h : engineTurn s = .next t) :
    engineTurn (dropWrite s) = .next (dropWrite t) := by
  cases hp : s.phase with
  | idle =>
    rw [engineTurn_idle hp] at h
    cases h
    exact engineTurn_idle hp
  | busy c =>
    cases hs : s.slot with
    | hold =>
      rw [engineTurn_hold hs] at h
      cases h
      exact engineTurn_hold hs
    | go sink =>
      rw [engineTurn_go hp hs] at h
      exact (engineTurn_go (s := dropWrite s) hp hs).trans (engineStepWith_dropWrite h)

/-- The engine's part of a turn leaves IGN. -/
theorem engineTurn_ign {s t : State} (h : engineTurn s = .next t) : t.ign = s.ign := by
  rcases engineTurn_next_cases h with rfl | ⟨_, rfl | rfl | ⟨_, ⟨_, rfl⟩ | ⟨_, code, rfl⟩⟩⟩ <;> simp

/-- What a command leaves in IDLE before the engine's part has IGN as it was, a start included. -/
theorem ctrlPart_ign (i : Instr) (s : State) : (ctrlPart i s).ign = s.ign := by
  cases i <;> rfl

/-! ### Commands -/

/-- Every command, in either phase, answers a next state. -/
theorem exec_next (i : Instr) (s : State) : ∃ t, exec i s = .next t := by
  cases hp : s.phase with
  | idle => rw [exec_idle i hp]; exact engineTurn_next _
  | busy c => rw [exec_busy i hp]; exact engineTurn_next _

/-- The CMD values 4 to 7 have bit 2 set. -/
theorem cmd_bit2_of_ge : ∀ c : BitVec 3, 4 ≤ c.toNat → c.getLsbD 2 = true := by decide

/-- A CTRL word whose CMD is 4 to 7 is the word of the reserved command with its two fields, so it decodes to it. -/
theorem decodeCtrl_of_cmd_ge {v : Word} (h : 4 ≤ (cmdField v).toNat) :
    decodeCtrl v = .reserved (cmdField v) (ignField v) := by
  have henc : encode (.reserved (cmdField v) (ignField v)) = v := ignField_append_cmdField v
  conv_lhs => rw [← henc]
  exact decodeCtrl_encode _ (cmd_bit2_of_ge _ h)

/-! ### Bus errors (60_exceptions.md R166) -/

/-- The unmapped offsets are the gap above the registers and what is above the frame window (20_memory.md R51). -/
theorem regionOf_eq_unmapped {a : Nat} :
    regionOf a = .unmapped ↔ (0x40 ≤ a ∧ a < 0x10000) ∨ 0x30000 ≤ a := by
  unfold regionOf
  split_ifs <;> simp only [true_iff, false_iff] <;> omega

/-- The bus raises no fault but its three. -/
theorem busFault_cases {b : BusTxn} {f : Fault} (h : busFault b = some f) :
    f = .busSize ∨ f = .busMisaligned ∨ f = .busUnmapped := by
  unfold busFault at h
  split_ifs at h <;> cases h
  · exact .inl rfl
  · exact .inr (.inl rfl)
  · exact .inr (.inr rfl)

/-- A transaction the bus does not let through is one of the three bus errors. -/
theorem busTurn_of_fault {b : BusTxn} (s : State) (h : busFault b ≠ none) :
    busTurn b s = .fault .busSize ∨ busTurn b s = .fault .busMisaligned ∨ busTurn b s = .fault .busUnmapped := by
  obtain ⟨f, hf⟩ := Option.ne_none_iff_exists'.1 h
  simp only [busTurn, hf]
  rcases busFault_cases hf with rfl | rfl | rfl
  · exact .inl rfl
  · exact .inr (.inl rfl)
  · exact .inr (.inr rfl)

/-- A host write answers a next state, whether it runs a command or stores. -/
theorem hostWrite_next (a : Nat) (v : Word) (s : State) : ∃ t, hostWrite a v s = .next t := by
  unfold hostWrite
  split
  · exact exec_next _ s
  · exact engineTurn_next _

/-- A transaction the bus lets through answers a next state. -/
theorem busTurn_next {b : BusTxn} (s : State) (h : busFault b = none) : ∃ t, busTurn b s = .next t := by
  rw [busTurn_of_ok h]
  split
  · exact hostWrite_next _ _ s
  · exact engineTurn_next _

end Sys2Proof.Machine
end

section
/-! SUPPORT. The statements on errors, IGN, reserved commands and bus errors. -/

open Sys2Proof Sys2Proof.Machine

/-- Settles O17: a state with IGN set is one with a dropped write. -/
theorem ignDoesNotDisturbTheCommand : Obligations.IgnDoesNotDisturbTheCommand := by
  refine ⟨fun s t h => ⟨engineTurn_dropWrite h, engineTurn_ign h⟩, fun i s t hp h => ?_⟩
  rw [exec_idle i hp] at h
  exact (engineTurn_ign h).trans (ctrlPart_ign i s)

/-- Settles O19. -/
theorem everyCommandAnswersANextState : Obligations.EveryCommandAnswersANextState :=
  ⟨checksumFieldsZero_eq, exec_next⟩

/-- Settles O42: the two cases are those in which the bus does not and does let the transaction through. -/
theorem busErrorsAreExactlyTheBadTransactions : Obligations.BusErrorsAreExactlyTheBadTransactions := by
  refine fun b s => ⟨fun hbad => busTurn_of_fault s fun hok => ?_, fun hsize halign hlow hhigh => ?_⟩
  · obtain ⟨hsize, halign, hmapped⟩ := busFault_eq_none.1 hok
    rcases hbad with h | h | h
    · exact h hsize
    · exact h halign
    · exact hmapped (regionOf_eq_unmapped.2 h)
  · have hmapped : regionOf b.addr.toNat ≠ .unmapped := by
      rw [Ne, regionOf_eq_unmapped]
      omega
    exact busTurn_next s (busFault_eq_none.2 ⟨hsize, halign, hmapped⟩)

/-- Settles O8: in IDLE the engine does nothing after the error, and while BUSY the write is dropped. -/
theorem reservedCommandReportsIllegalCmd : Obligations.ReservedCommandReportsIllegalCmd :=
  ⟨fun _ h => decodeCtrl_of_cmd_ge h, fun cmd g _ =>
    ⟨fun hp => (exec_idle (.reserved cmd g) hp).trans (engineTurn_idle hp),
      fun _ hp hs => (exec_busy (.reserved cmd g) hp).trans (engineTurn_hold hs)⟩⟩

/-- Settles O18: `raiseError` and `acknowledge` are these updates of STATUS. -/
theorem takingAnErrorWritesOnlyStatus : Obligations.TakingAnErrorWritesOnlyStatus := fun _ _ => ⟨rfl, rfl⟩

end

section
/-! SUPPORT. A reset turn, and the two things a reset does with the command it abandons (70_reset_and_hazards.md R182). -/

namespace Sys2Proof.Machine

/-- A step whose turn is a reset is that reset: the engine takes no step in it. -/
theorem step_reset {s : State} {cut : Option (Nat × BitVec 2)} {slot : EngineSlot} {rest : List Turn}
    (h : s.schedule = ⟨.reset cut, slot⟩ :: rest) :
    step s = .next (resetWith Config.params cut { s with schedule := rest, slot := slot }) :=
  step_of_schedule h

/-- A reset that abandons a SEND past its length check, of which the sink took a part, records that part. -/
theorem resetWith_txLog_of_cut (p : Params) (k : Nat) (code : BitVec 2) (s : State)
    (hp : s.phase = .busy .send) (hl : s.payloadLen.toNat ≤ 65495) :
    (resetWith p (some (k, code)) s).txLog
      = s.txLog ++ [txRecord s ((frameOf (operandsWith p s)).take k) (responseOf code)] := by
  simp only [resetWith, hp, payloadTooLong_eq_false.2 hl, Bool.false_eq_true, if_false]
  rfl

/-- Any other reset records nothing. -/
theorem resetWith_txLog_same (p : Params) (cut : Option (Nat × BitVec 2)) (s : State)
    (h : s.phase ≠ .busy .send ∨ 65495 < s.payloadLen.toNat ∨ cut = none) : (resetWith p cut s).txLog = s.txLog := by
  unfold resetWith
  split
  · rename_i k code hp
    obtain hphase | hl | hcut := h
    · exact absurd hp hphase
    · rw [if_pos (payloadTooLong_eq_true.2 hl)]
      rfl
    · cases hcut
  · rfl

/-- A reset leaves the state of power-on but for TxLog, the read data on the bus and the model's own fields. -/
theorem resetWith_eq_reset (p : Params) (cut : Option (Nat × BitVec 2)) (s : State) :
    resetWith p cut s
      = { State.reset with
          txLog := (resetWith p cut s).txLog, rdata := s.rdata, draws := (resetWith p cut s).draws,
          schedule := s.schedule, slot := s.slot } := by
  obtain ⟨_, _, _, _, hreset⟩ := resetValues
  obtain ⟨more, n, h⟩ := hreset p cut s
  rw [h]

end Sys2Proof.Machine
end

section
/-! SUPPORT. The statement on reset from any state. -/

open Sys2Proof Sys2Proof.Machine

/-- Settles O55: the turn is taken in `s` but for its schedule and slot, which neither the record nor its absence depends on. -/
theorem resetFromAnyState : Obligations.ResetFromAnyState := by
  intro cut slot rest s hs
  refine ⟨_, step_reset hs, resetWith_eq_reset .., fun k code hp hl hcut => ?_, fun h => ?_⟩
  · subst hcut
    exact resetWith_txLog_of_cut _ k code { s with schedule := rest, slot := slot } hp hl
  · exact resetWith_txLog_same _ cut { s with schedule := rest, slot := slot } h

end
